-- ==== Sys2Proof/Word.lean ====
section
/-! DEFINITION. The value types of the spec (00_scope.md R10): the byte, the word16, and the 32-bit
position word (10_state.md R20, R21). All values are unsigned. -/

namespace Sys2Proof

/-- "A *byte* is an unsigned integer 0..255" (R10). -/
abbrev Byte := BitVec 8

/-- "A *word16* is an unsigned integer 0..65535" (R10): the CRC register and the command word. -/
abbrev Word16 := BitVec 16

/-- The width of `POS`, `FRAME_START` and of an event's `offset` (R20, R21, R48). -/
abbrev Word32 := BitVec 32

end Sys2Proof
end

