-- ==== Sys2Proof/Machine/CrcFunction.lean ====
section
/-! DEFINITION. The pure function `crc16` of 40_crc_engine.md, with its algorithm parameters (R53): the
unreflected, most-significant-bit-first variant the spec fixes (R65, 90_conflicts.md C4). -/

namespace Sys2Proof.Machine

/-- The polynomial 0x1021 (R53). -/
def crcPoly : Word16 := 0x1021

/-- The initial register value 0xFFFF (R53). -/
def crcInitValue : Word16 := 0xFFFF

/-- The final XOR 0xFFFF (R53). -/
def crcXorOut : Word16 := 0xFFFF

/-- `step(r)` of R54: shift left by one, and XOR the polynomial if bit 15 was set. -/
def bitStep (r : Word16) : Word16 :=
  if r.getLsbD 15 then (r <<< 1) ^^^ crcPoly else r <<< 1

/-- `step` applied `k` times. -/
def bitSteps : Nat → Word16 → Word16
  | 0, r => r
  | k + 1, r => bitSteps k (bitStep r)

/-- `upd(r, b)` of R55: the byte enters bits [15:8], then eight bit steps. -/
def byteUpdate (r : Word16) (b : Byte) : Word16 :=
  bitSteps 8 (r ^^^ (b.zeroExtend 16 <<< 8))

/-- `raw(s)` of R56: the register before the final XOR. -/
def crcRaw (s : List Byte) : Word16 := s.foldl byteUpdate crcInitValue

/-- The final XOR with 0xFFFF (R56, R59). -/
def crcFinish (r : Word16) : Word16 := r ^^^ crcXorOut

/-- `crc16(s)` of R56. -/
def crc16 (s : List Byte) : Word16 := crcFinish (crcRaw s)

/-- The table entry `T[i] = step^8(i << 8)` of R63. -/
def crcTable (i : Byte) : Word16 := bitSteps 8 (i.zeroExtend 16 <<< 8)

/-- The table form of the byte update (R63). R55 is the normative form. -/
def byteUpdateTable (r : Word16) (b : Byte) : Word16 :=
  (r <<< 8) ^^^ crcTable (r.extractLsb' 8 8 ^^^ b)

/-- The residue of R62: the register after a message and its own check bytes. -/
def crcResidue : Word16 := 0x1D0F

end Sys2Proof.Machine
end

