-- ==== Sys2Proof/Config.lean ====
section
/-! DEFINITION. What an implementation of the block fixes: its four parameters (00_scope.md R9) and the
flag value, which is no parameter. -/

namespace Sys2Proof

/-- The four parameters of an implementation, constant from before the first operation on (R9). -/
structure Params where
  /-- `ADDR_LEN`: length of the address field in bytes. -/
  addrLen : Nat
  /-- `CTRL_LEN`: length of the control field in bytes. -/
  ctrlLen : Nat
  /-- `MAX_FRAME_LEN`: capacity of the frame buffer `BUF` in bytes. -/
  maxFrameLen : Nat
  /-- `REPORT_DESYNC`: whether noise before a leading flag is reported. -/
  reportDesync : Bool
  deriving DecidableEq, Repr

/-- `HDR_LEN = ADDR_LEN + CTRL_LEN` (R9). -/
def Params.hdrLen (p : Params) : Nat := p.addrLen + p.ctrlLen

/-- `MIN_FRAME_LEN = HDR_LEN + 4`: header, 2-byte HCS, 2-byte FCS (R9). -/
def Params.minFrameLen (p : Params) : Nat := p.hdrLen + 4

/-- The constraints of R9 and R113(a). An implementation that violates them is outside the spec
(93_implementation_defined.md U4). -/
abbrev Params.Legal (p : Params) : Prop :=
  1 ≤ p.addrLen ∧ 1 ≤ p.ctrlLen ∧ p.addrLen + p.ctrlLen + 4 ≤ p.maxFrameLen

/-- The width of `BUFLEN`, `ceil(log2(MAX_FRAME_LEN + 1))` bits (10_state.md R13). `State.bufLen` is a
natural number; that it fits this width follows from invariant I-b. -/
def Params.bufLenWidth (p : Params) : Nat := Nat.clog 2 (p.maxFrameLen + 1)

/-- The flag value 0x7E, "Fixed, not parameters" (R9, 30_encoding.md R37). -/
def flagByte : Byte := 0x7E

/-- The parameters `State.reset` carries: the spec's test configuration `T1` (95_test_vectors.md).
DESIGN CHOICE, unsafe (notes/assumptions/1.md): the spec leaves the four values OPEN. Nothing but
`State.reset` and `decodeTableWord` uses it; `State.powerOn` takes any parameters. -/
def Config.chosen : Params :=
  { addrLen := 1, ctrlLen := 1, maxFrameLen := 16, reportDesync := true }

end Sys2Proof
end

