-- ==== Sys2Proof/Syntax.lean ====
section
/-! DEFINITION. The operation set (30_encoding.md R44, R45): one constructor of `Instr` per row of
spec/opcode_table.json, the six commands they are encoded as, and what the decode of `FRM.RX` reads of
the state. -/

namespace Sys2Proof

/-- The framer's sequencing state `FSTATE` (10_state.md R16). Code 3 has no constructor: it is
unreachable (R16, 93_implementation_defined.md U5). -/
inductive FState where
  /-- Code 0: no frame is open. -/
  | seeking
  /-- Code 1: an opening flag has been seen. -/
  | inFrame
  /-- Code 2: a closed candidate awaits `FRM.VALIDATE`. -/
  | validating
  deriving DecidableEq, Repr

/-- The operations of the block, one constructor per row of the opcode table. `FRM.RX b` is six of
them, one per case of R45; its flag cases carry no byte, since their byte is the flag. -/
inductive Instr where
  /-- `CRC.INIT` (40_crc_engine.md R57). -/
  | crcInit
  /-- `CRC.UPDATE b` (R58). -/
  | crcUpdate (b : Byte)
  /-- `CRC.FINAL` (R59). -/
  | crcFinal
  /-- `RX.SEEK_FLAG` (41_framer_rx.md R70). -/
  | rxSeekFlag
  /-- `RX.IN_FLAG_EMPTY` (R73). -/
  | rxInFlagEmpty
  /-- `RX.IN_FLAG_CLOSE` (R74). -/
  | rxInFlagClose
  /-- `RX.SEEK_NOISE` (R69). -/
  | rxSeekNoise (b : Byte)
  /-- `RX.IN_DATA` (R71). -/
  | rxInData (b : Byte)
  /-- `RX.IN_OVERFLOW` (R72). -/
  | rxInOverflow (b : Byte)
  /-- `FRM.VALIDATE` (42_framer_validate.md R86). -/
  | frmValidate
  /-- `FRM.RESET` (R91). -/
  | frmReset
  deriving DecidableEq, Repr

/-- The six operations of R44 as a command word names them, before the decode of `FRM.RX` into its
cases. -/
inductive Cmd where
  | crcInit
  | crcUpdate (b : Byte)
  | crcFinal
  | frmRx (b : Byte)
  | frmValidate
  | frmReset
  deriving DecidableEq, Repr

/-- What the decode of `FRM.RX b` reads beside the byte: "by `FSTATE`, by whether `b` is a flag, and by
`BUFLEN`, evaluated on the state before the operation" (R45), with the parameter `MAX_FRAME_LEN`. -/
structure RxContext where
  fstate : FState
  bufLen : Nat
  maxFrameLen : Nat
  deriving DecidableEq, Repr

end Sys2Proof
end

