-- ==== Sys2Proof/WellFormed.lean ====
section
/-! DEFINITION. Which instructions are well formed: the data cases of `FRM.RX` never carry the flag. -/

namespace Sys2Proof

/-- "the data pattern means \"any `b` other than 0x7E\"" (30_encoding.md R45). Every other instruction
is well formed with every operand (R47). -/
def Instr.wellFormed : Instr → Bool
  | .crcInit => true
  | .crcUpdate _ => true
  | .crcFinal => true
  | .rxSeekFlag => true
  | .rxInFlagEmpty => true
  | .rxInFlagClose => true
  | .rxSeekNoise b => b != flagByte
  | .rxInData b => b != flagByte
  | .rxInOverflow b => b != flagByte
  | .frmValidate => true
  | .frmReset => true

end Sys2Proof
end

