-- ==== Sys2Proof/Decode.lean ====
section
/-! DEFINITION. The command word `CMD16` (30_encoding.md R43 to R46): the decoder, then the encoder. -/

namespace Sys2Proof

/-- The names under which a command word is rejected. -/
inductive DecodeError where
  /-- The operation code is reserved (R46). -/
  | reservedOp (op : Byte)
  /-- `FRM.RX` while `FSTATE = Validating`: the byte is held, neither consumed nor lost (R78). -/
  | rxHeld
  /-- `FRM.RX` in a state outside the invariants (`BUFLEN > MAX_FRAME_LEN`): no case of R45 applies. -/
  | rxNoCase
  deriving DecidableEq, Repr

/-- Field `op`, bits [15:8] (R43). -/
def opField (w : Word16) : Byte := w.extractLsb' 8 8

/-- Field `b`, bits [7:0] (R43). -/
def bField (w : Word16) : Byte := w.extractLsb' 0 8

/-- The operation codes of R44; every other code is reserved (R46). The operand byte of an operation
that takes none is ignored (R43, R46). -/
def decodeCmd (w : Word16) : Except DecodeError Cmd :=
  if opField w = 0x00 then .ok .crcInit
  else if opField w = 0x01 then .ok (.crcUpdate (bField w))
  else if opField w = 0x02 then .ok .crcFinal
  else if opField w = 0x10 then .ok (.frmRx (bField w))
  else if opField w = 0x11 then .ok .frmValidate
  else if opField w = 0x1F then .ok .frmReset
  else .error (.reservedOp (opField w))

/-- The decode of `FRM.RX b` into its six cases (R45); in `Validating` the operation is held (R67). -/
def selectRx (c : RxContext) (b : Byte) : Except DecodeError Instr :=
  match c.fstate with
  | .seeking => if b = flagByte then .ok .rxSeekFlag else .ok (.rxSeekNoise b)
  | .inFrame =>
    if b = flagByte then
      if c.bufLen = 0 then .ok .rxInFlagEmpty else .ok .rxInFlagClose
    else if c.bufLen < c.maxFrameLen then .ok (.rxInData b)
    else if c.bufLen = c.maxFrameLen then .ok (.rxInOverflow b)
    else .error .rxNoCase
  | .validating => .error .rxHeld

/-- The instruction a command stands for in a given framer state. -/
def resolve (c : RxContext) : Cmd → Except DecodeError Instr
  | .crcInit => .ok .crcInit
  | .crcUpdate b => .ok (.crcUpdate b)
  | .crcFinal => .ok .crcFinal
  | .frmRx b => selectRx c b
  | .frmValidate => .ok .frmValidate
  | .frmReset => .ok .frmReset

/-- The decoder, total on every word: the command, then for `FRM.RX` its case. -/
def decode (c : RxContext) (w : Word16) : Except DecodeError Instr :=
  match decodeCmd w with
  | .ok cmd => resolve c cmd
  | .error e => .error e

/-- The condition column of R45's table, one line per case; an instruction that is no case of `FRM.RX`
has no such condition. -/
def Instr.selectedIn (c : RxContext) : Instr → Bool
  | .crcInit => true
  | .crcUpdate _ => true
  | .crcFinal => true
  | .rxSeekFlag => c.fstate == .seeking
  | .rxInFlagEmpty => c.fstate == .inFrame && c.bufLen == 0
  | .rxInFlagClose => c.fstate == .inFrame && decide (1 ≤ c.bufLen)
  | .rxSeekNoise b => c.fstate == .seeking && b != flagByte
  | .rxInData b => c.fstate == .inFrame && b != flagByte && decide (c.bufLen < c.maxFrameLen)
  | .rxInOverflow b => c.fstate == .inFrame && b != flagByte && c.bufLen == c.maxFrameLen
  | .frmValidate => true
  | .frmReset => true

/-- What the decoder knows of the framer right after reset (10_state.md R24). -/
def resetContext : RxContext :=
  { fstate := .seeking, bufLen := 0, maxFrameLen := Config.chosen.maxFrameLen }

/-- The table's bits as a command word: `nbits` of them, those above zero. -/
def tableWord (nbits w : Nat) : Word16 := BitVec.ofNat 16 (w % 2 ^ nbits)

/-- The instruction the decoder reads from a table word in the state after reset. The six rows of
`FRM.RX` share two patterns, and only the state tells them apart (R45, notes/assumptions/4.md). -/
def decodeTableWord (nbits w : Nat) : Option Instr :=
  if nbits ≤ 16 then
    match decode resetContext (tableWord nbits w) with
    | .ok i => some i
    | .error _ => none
  else none

/-- A command word from its two fields (R43). -/
def cmdWord (op b : Byte) : Word16 := (op.zeroExtend 16 <<< 8) ||| b.zeroExtend 16

/-- The command word of a command (R44, R50); `b` is written as zero where there is no operand (R43). -/
def encodeCmd : Cmd → Word16
  | .crcInit => cmdWord 0x00 0
  | .crcUpdate b => cmdWord 0x01 b
  | .crcFinal => cmdWord 0x02 0
  | .frmRx b => cmdWord 0x10 b
  | .frmValidate => cmdWord 0x11 0
  | .frmReset => cmdWord 0x1F 0

/-- The command an instruction is a case of. -/
def Instr.cmd : Instr → Cmd
  | .crcInit => .crcInit
  | .crcUpdate b => .crcUpdate b
  | .crcFinal => .crcFinal
  | .rxSeekFlag => .frmRx flagByte
  | .rxInFlagEmpty => .frmRx flagByte
  | .rxInFlagClose => .frmRx flagByte
  | .rxSeekNoise b => .frmRx b
  | .rxInData b => .frmRx b
  | .rxInOverflow b => .frmRx b
  | .frmValidate => .frmValidate
  | .frmReset => .frmReset

/-- The encoder: the command word of an instruction. -/
def encode (i : Instr) : Word16 := encodeCmd i.cmd

end Sys2Proof
end

