-- ==== Sys2Proof/Machine/State.lean ====
section
/-! DEFINITION. The machine's state as plain data (10_state.md R13), the events it emits, the operations
the agents offer it, and the reasons a step can stop. -/

namespace Sys2Proof.Machine

/-- The four link-layer error kinds (30_encoding.md R49, 60_exceptions.md R93). -/
inductive ErrorKind where
  | desync
  | headerCrcMismatch
  | frameCrcMismatch
  | truncated
  deriving DecidableEq, Repr

/-- The events of the output trace `OUT` (30_encoding.md R48). -/
inductive Event where
  /-- A frame passed both checks. -/
  | payload (addr ctrl info : List Byte)
  /-- A candidate or a run of noise was dropped; `offset` is a stream offset (R20). -/
  | error (kind : ErrorKind) (offset : Word32)
  deriving DecidableEq, Repr

/-- Who issues operations (00_scope.md R7, the "Issued by" column of 30_encoding.md R44). `SINK` has no
step on the block's state and is therefore no agent of this type. -/
inductive Agent where
  /-- `SRC`, the byte source. -/
  | src
  /-- `FRMU`, the framer's own sequencer. -/
  | frmu
  /-- `CLIENT`, the user of the CRC port. -/
  | client
  /-- "the system", which may issue `FRM.RESET` (R44). -/
  | system
  deriving DecidableEq, Repr

/-- One operation offered to the block: who offers it and its command word. -/
structure Issue where
  agent : Agent
  word : Word16
  deriving DecidableEq, Repr

/-- The frame buffer `BUF` as index and byte pairs (10_state.md R18, 20_memory.md R26). An unlisted
index holds no value: "contents unspecified" (R18, R24), and reading it faults. -/
abbrev Memory := List Host.Cell

/-- The canonical form: indices strictly rising. An unlisted index has no value, so no entry can equal
what an unlisted index reads as. -/
abbrev Memory.wf (m : Memory) : Prop := m.Pairwise (fun a b => a.1 < b.1)

/-- The state tuple of R13, `(CRC, FSTATE, BUFLEN, BUF, NOISE, POS, FRAME_START)`, with the parameters
(registers 5 to 8 of R22, never written) and three fields of the model's own: the two observations
`out` and `returned`, which no meaning reads, and the offered operations `input`. -/
structure State where
  /-- `ADDR_LEN`, `CTRL_LEN`, `MAX_FRAME_LEN`, `REPORT_DESYNC` (R9, R22). -/
  params : Params
  /-- `CRC`, the running remainder before the final XOR (R14). -/
  crc : Word16
  /-- `FSTATE` (R16). -/
  fstate : FState
  /-- `BUFLEN`, the fill count and write index (R17). -/
  bufLen : Nat
  /-- `BUF` (R18). -/
  buf : Memory
  /-- `NOISE`, the only status flag (R19). -/
  noise : Bool
  /-- `POS`, the bytes accepted since reset modulo 2^32 (R20). -/
  pos : Word32
  /-- `FRAME_START`, the offset of the flag that opened the candidate (R21). -/
  frameStart : Word32
  /-- The output trace `OUT`, oldest first: an observation (00_scope.md R8). -/
  out : List Event
  /-- The values `CRC.FINAL` has returned to `CLIENT`, oldest first: an observation (R59). -/
  returned : List Word16
  /-- The operations the agents offer, in the order they come: the environment's choice. -/
  input : List Issue
  deriving DecidableEq, Repr

/-- The reasons a step ends in a fault. Each is a buffer access the spec says no rule issues
(20_memory.md R27), so none happens in a state that meets the invariants; all are safe. -/
inductive Fault where
  /-- Raised by `memRead` at an index not below `BUFLEN` (R27). Safe: the model stops. -/
  | bufReadIllegal (i : Nat)
  /-- Raised by `memRead` at an index no byte was written to (R18, U1). Safe: the model stops. -/
  | bufUnwritten (i : Nat)
  /-- Raised by `memWrite` at an index not below `MAX_FRAME_LEN` (R12). Safe: the model stops. -/
  | bufWriteIllegal (i : Nat)
  deriving DecidableEq, Repr

/-- The reasons a step is refused. All are safe: the model stops where the spec gives no effect. -/
inductive Refusal where
  /-- An instruction without a meaning; no arm of `exec` raises it. Safe. -/
  | notModelled (mnemonic : String)
  /-- A reserved operation code (R46, U3). Raised by the step. Safe. -/
  | reservedOp (op : Byte)
  /-- An operation issued by an agent that does not own its port: `FRM.VALIDATE` from outside (R46),
  or an operation of another agent's port (R105). Raised by the step. Safe. -/
  | notIssuable (agent : Agent)
  /-- `FRM.RX` executed while `FSTATE = Validating`; the step holds the byte and never asks (R78).
  Raised by the six cases of `FRM.RX`. Safe. -/
  | rxHeld
  /-- A case of `FRM.RX` executed where R45 does not select it. Raised by the six cases. Safe. -/
  | rxCaseNotSelected
  /-- `FRM.VALIDATE` with `FSTATE` not `Validating` (R79). Raised by `FRM.VALIDATE`. Safe. -/
  | validateNotEnabled
  /-- Parameters that violate R9 (U4). Raised by the step. Safe. -/
  | illegalParameters
  deriving DecidableEq, Repr

/-- What a step or a meaning answers. -/
abbrev Result := Host.Outcome State Fault Refusal

/-- Power-on reset of a block with the parameters `p` (70_reset_and_hazards.md R112, 10_state.md R24).
The observations start empty and nothing is offered. -/
def State.powerOn (p : Params) : State :=
  { params := p, crc := 0xFFFF, fstate := .seeking, bufLen := 0, buf := [], noise := false, pos := 0,
    frameStart := 0, out := [], returned := [], input := [] }

/-- The machine right after reset, with the parameters of `Config.chosen` (notes/assumptions/1.md). -/
def State.reset : State := State.powerOn Config.chosen

end Sys2Proof.Machine
end

