-- ==== Sys2Proof/Machine/Ops.lean ====
section
/-! DEFINITION. The named operations over the buffer, the registers and the offered operations; raising
an error and recovering from one (60_exceptions.md R98, R99); which operation the block runs next. -/

namespace Sys2Proof.Machine

/-! ## The frame buffer -/

/-- The byte a memory holds at an index; none where nothing was written (R18). -/
def Memory.read : Memory → Nat → Option Byte
  | [], _ => none
  | c :: m, i => if c.1 = i then some c.2 else Memory.read m i

/-- Write a byte, keeping the indices strictly rising. -/
def Memory.write : Memory → Nat → Byte → Memory
  | [], i, v => [(i, v)]
  | c :: m, i, v =>
    if i < c.1 then (i, v) :: c :: m
    else if i = c.1 then (i, v) :: m
    else c :: Memory.write m i v

/-- `MemRead(i, 1)`: "legal only for `0 <= i < BUFLEN`" (00_scope.md R12, 20_memory.md R27). -/
def State.memRead (s : State) (i : Nat) : Except Fault Byte :=
  if i < s.bufLen then
    match s.buf.read i with
    | some b => .ok b
    | none => .error (.bufUnwritten i)
  else .error (.bufReadIllegal i)

/-- The byte string of `k` bytes from index `i` on, in order of index (R11, R12). -/
def State.memReadBytes (s : State) (i : Nat) : Nat → Except Fault (List Byte)
  | 0 => .ok []
  | k + 1 =>
    match s.memRead i with
    | .error f => .error f
    | .ok b =>
      match s.memReadBytes (i + 1) k with
      | .error f => .error f
      | .ok bs => .ok (b :: bs)

/-- `MemWrite(i, 1, v)`: "legal only for `0 <= i < MAX_FRAME_LEN`" (R12). -/
def State.memWrite (s : State) (i : Nat) (v : Byte) : Except Fault State :=
  if i < s.params.maxFrameLen then .ok { s with buf := s.buf.write i v }
  else .error (.bufWriteIllegal i)

/-! ## The registers -/

/-- Write `CRC` (R14). -/
def State.setCrc (s : State) (v : Word16) : State := { s with crc := v }

/-- Return a word16 to `CLIENT` (R59). -/
def State.returnWord (s : State) (v : Word16) : State := { s with returned := s.returned ++ [v] }

/-- `POS <- (POS + 1) mod 2^32`: one byte of the stream is consumed (R20, R67). -/
def State.acceptByte (s : State) : State := { s with pos := s.pos + 1 }

/-- Write `NOISE` (R19). -/
def State.setNoise (s : State) (v : Bool) : State := { s with noise := v }

/-- Write `FRAME_START` (R21). -/
def State.setFrameStart (s : State) (off : Word32) : State := { s with frameStart := off }

/-- Write `BUFLEN` (R17). -/
def State.setBufLen (s : State) (n : Nat) : State := { s with bufLen := n }

/-- Write `FSTATE` (R16). -/
def State.setFState (s : State) (f : FState) : State := { s with fstate := f }

/-! ## Raising an error, and recovery -/

/-- `emit E`: append an event to `OUT`; it never blocks and never fails (R12, R48). -/
def State.emit (s : State) (e : Event) : State := { s with out := s.out ++ [e] }

/-- `raise FrameError::K(offset)`: "appends `ERROR(K, offset)` to `OUT` and nothing else" (R98). The
state writes that drop the candidate belong to the raising rule. -/
def State.raiseError (s : State) (k : ErrorKind) (off : Word32) : State := s.emit (.error k off)

/-- The epilogue of `FRM.VALIDATE`, which is also the recovery from its errors (R85, R99): the closing
flag becomes the opening flag of the next candidate. `BUF` is not cleared. -/
def State.resync (s : State) : State :=
  ((s.setBufLen 0).setFState .inFrame).setFrameStart (s.pos - 1)

/-- The candidate is dropped and the rest of its run is noise already reported (R72). -/
def State.dropOverlong (s : State) : State :=
  ((s.setBufLen 0).setFState .seeking).setNoise true

/-- The state writes of `FRM.RESET` (R91): the framer's registers at their reset values, `BUF`
unspecified (nothing listed), `CRC` and the observations left alone. -/
def State.framerReset (s : State) : State :=
  { s with fstate := .seeking, bufLen := 0, buf := [], noise := false, pos := 0, frameStart := 0 }

/-! ## The decode context and the enabling of `FRM.RX` -/

/-- What the decode of `FRM.RX` reads of the state (R45). -/
def State.rxContext (s : State) : RxContext :=
  { fstate := s.fstate, bufLen := s.bufLen, maxFrameLen := s.params.maxFrameLen }

/-- The common part of the six cases (R67): not enabled in `Validating` (R78), refused where R45 does
not select the case, else the byte is accepted and the case runs on that state and the byte's offset. -/
def rxCase (i : Instr) (s : State) (run : State → Word32 → Result) : Result :=
  if s.fstate = .validating then .refused .rxHeld
  else if i.selectedIn s.rxContext then run s.acceptByte s.pos
  else .refused .rxCaseNotSelected

/-! ## Which operation comes next -/

/-- The "Issued by" column of R44. -/
def Agent.owns : Agent → Cmd → Bool
  | .client, .crcInit => true
  | .client, .crcUpdate _ => true
  | .client, .crcFinal => true
  | .src, .frmRx _ => true
  | .src, .frmReset => true
  | .system, .frmReset => true
  | .frmu, .frmValidate => true
  | _, _ => false

/-- What the block does next. -/
inductive Turn where
  /-- No operation is issued: the block keeps all state (R107). -/
  | idle
  /-- The framer's own sequencer runs `FRM.VALIDATE`; no offered operation is consumed (R78, R79). -/
  | sequencer
  /-- The first offered operation runs; `rest` stays offered. -/
  | issued (i : Instr) (rest : List Issue)
  /-- The first offered operation has no defined effect. -/
  | rejected (r : Refusal)
  deriving DecidableEq, Repr

/-- The refusal a decode error becomes. -/
def DecodeError.refusal : DecodeError → Refusal
  | .reservedOp op => .reservedOp op
  | .rxHeld => .rxHeld
  | .rxNoCase => .rxCaseNotSelected

/-- The turn of an offered operation: refused if the agent does not own it (R46, R105); held, with the
sequencer running in its place, if it is `FRM.RX` in `Validating` (R78, R117); else run. -/
def State.turnOf (s : State) (q : Issue) (rest : List Issue) : Turn :=
  match decodeCmd q.word with
  | .error e => .rejected (DecodeError.refusal e)
  | .ok cmd =>
    if q.agent.owns cmd then
      match resolve s.rxContext cmd with
      | .ok i => .issued i rest
      | .error .rxHeld => .sequencer
      | .error e => .rejected (DecodeError.refusal e)
    else .rejected (.notIssuable q.agent)

/-- The turn with nothing offered: a closed candidate is validated (R79), otherwise the block idles
(R107). -/
def State.turnAlone (s : State) : Turn :=
  if s.fstate = .validating then .sequencer else .idle

/-- The turn of the block. A block whose parameters violate R9 is refused (U4). -/
def State.turn (s : State) : Turn :=
  if s.params.Legal then
    match s.input with
    | [] => s.turnAlone
    | q :: rest => s.turnOf q rest
  else .rejected .illegalParameters

/-- The offered operations that remain. -/
def State.setInput (s : State) (l : List Issue) : State := { s with input := l }

/-- The agent that owns the operation a command word names (R44); `CLIENT` for a reserved word. -/
def issuer (w : Word16) : Agent :=
  match decodeCmd w with
  | .ok (.frmRx _) => .src
  | .ok .frmReset => .src
  | .ok .frmValidate => .frmu
  | .ok _ => .client
  | .error _ => .client

/-- Offer a command word, by the agent that owns it, before all that is offered already. -/
def State.offer (s : State) (w : Word16) : State :=
  s.setInput ({ agent := issuer w, word := w } :: s.input)

end Sys2Proof.Machine
end

