-- ==== Sys2Proof/Machine/Crc.lean ====
section
/-! DEFINITION. The three operations of the CRC port (40_crc_engine.md R57 to R59). They are always
enabled, raise no error, emit no event and touch nothing of the framer (10_state.md R15). -/

namespace Sys2Proof.Machine

/-- `CRC.INIT`: `CRC <- 0xFFFF` (R57). -/
def execCrcInit (s : State) : Result := .next (s.setCrc crcInitValue)

/-- `CRC.UPDATE b`: `CRC <- upd(CRC, b)` (R58). -/
def execCrcUpdate (b : Byte) (s : State) : Result := .next (s.setCrc (byteUpdate s.crc b))

/-- `CRC.FINAL`: return `CRC xor 0xFFFF`; `CRC` is not written (R59). -/
def execCrcFinal (s : State) : Result := .next (s.returnWord (crcFinish s.crc))

end Sys2Proof.Machine
end

