-- ==== Sys2Proof/Machine/Operands.lean ====
section
/-! DEFINITION. The operand forms: 16-bit check fields from two bytes (00_scope.md R10, 30_encoding.md
R40), the fields of a candidate (R39, R81), and the byte strings the two checks cover (R41). -/

namespace Sys2Proof.Machine

/-- `be16(hi, lo) = (hi << 8) | lo` (R10). -/
def be16 (hi lo : Byte) : Word16 := (hi.zeroExtend 16 <<< 8) ||| lo.zeroExtend 16

/-- `hi8(v) = v[15:8]` (R10). -/
def hi8 (v : Word16) : Byte := v.extractLsb' 8 8

/-- `lo8(v) = v[7:0]` (R10). -/
def lo8 (v : Word16) : Byte := v.extractLsb' 0 8

/-- A 16-bit field at index `i`, high byte first (R28, R40). -/
def State.readBe16 (s : State) (i : Nat) : Except Fault Word16 :=
  match s.memRead i with
  | .error f => .error f
  | .ok hi =>
    match s.memRead (i + 1) with
    | .error f => .error f
    | .ok lo => .ok (be16 hi lo)

/-- `ADDR`: indices 0 to `ADDR_LEN - 1` (R39). -/
def State.readAddr (s : State) : Except Fault (List Byte) := s.memReadBytes 0 s.params.addrLen

/-- `CTRL`: indices `ADDR_LEN` to `HDR_LEN - 1` (R39). -/
def State.readCtrl (s : State) : Except Fault (List Byte) :=
  s.memReadBytes s.params.addrLen s.params.ctrlLen

/-- `hcs_rx`: the header check sequence as received, at `HDR_LEN` (R40, R81). -/
def State.readHcs (s : State) : Except Fault Word16 := s.readBe16 s.params.hdrLen

/-- `INFO`: indices `HDR_LEN + 2` to `n - 3`, possibly empty (R39). -/
def State.readInfo (s : State) : Except Fault (List Byte) :=
  s.memReadBytes (s.params.hdrLen + 2) (s.bufLen - s.params.hdrLen - 4)

/-- `fcs_rx`: the frame check sequence as received, at `n - 2` (R40, R81). -/
def State.readFcs (s : State) : Except Fault Word16 := s.readBe16 (s.bufLen - 2)

/-- What the header check sequence covers, `BUF[0 .. HDR_LEN-1]` (R41). -/
def State.readHeader (s : State) : Except Fault (List Byte) := s.memReadBytes 0 s.params.hdrLen

/-- What the frame check sequence covers, `BUF[0 .. n-3]` (R41). -/
def State.readCovered (s : State) : Except Fault (List Byte) := s.memReadBytes 0 (s.bufLen - 2)

end Sys2Proof.Machine
end

