-- ==== Sys2Proof/Machine/Frm.lean ====
section
/-! DEFINITION. `FRM.VALIDATE` and `FRM.RESET` (42_framer_validate.md). -/

namespace Sys2Proof.Machine

/-- The outcome of the three checks: the parsed fields, or the error kind to raise. -/
inductive Verdict where
  | accepted (addr ctrl info : List Byte)
  | rejected (kind : ErrorKind)
  deriving DecidableEq, Repr

/-- Success: the header slices and the information field (R81, R84). No value of address or control is
checked (R87). -/
def State.acceptedFields (s : State) : Except Fault Verdict :=
  match s.readAddr with
  | .error f => .error f
  | .ok addr =>
    match s.readCtrl with
    | .error f => .error f
    | .ok ctrl =>
      match s.readInfo with
      | .error f => .error f
      | .ok info => .ok (.accepted addr ctrl info)

/-- Step 3: the frame check (R83). -/
def State.frameCheck (s : State) : Except Fault Verdict :=
  match s.readFcs with
  | .error f => .error f
  | .ok fcsRx =>
    match s.readCovered with
    | .error f => .error f
    | .ok covered =>
      if fcsRx ≠ crc16 covered then .ok (.rejected .frameCrcMismatch) else s.acceptedFields

/-- Step 2: the header check; where it fails the frame check is not examined (R82). -/
def State.headerCheck (s : State) : Except Fault Verdict :=
  match s.readHcs with
  | .error f => .error f
  | .ok hcsRx =>
    match s.readHeader with
    | .error f => .error f
    | .ok header =>
      if hcsRx ≠ crc16 header then .ok (.rejected .headerCrcMismatch) else s.frameCheck

/-- The checks in their order, the length check first (R80, R86, R100). -/
def State.verdict (s : State) : Except Fault Verdict :=
  if s.bufLen < s.params.minFrameLen then .ok (.rejected .truncated) else s.headerCheck

/-- Emit what a verdict says: one event (R84, R98). -/
def State.report (s : State) : Verdict → State
  | .accepted addr ctrl info => s.emit (.payload addr ctrl info)
  | .rejected k => s.raiseError k s.frameStart

/-- `FRM.VALIDATE`: the checks, one event, the epilogue (R86); enabled exactly in `Validating` (R79). -/
def execFrmValidate (s : State) : Result :=
  if s.fstate = .validating then
    match s.verdict with
    | .ok v => .next (s.report v).resync
    | .error f => .fault f
  else .refused .validateNotEnabled

/-- `FRM.RESET`: enabled always, emits nothing (R91). -/
def execFrmReset (s : State) : Result := .next s.framerReset

end Sys2Proof.Machine
end

