-- ==== Sys2Proof/Machine/Flags.lean ====
section
/-! DEFINITION. The status flag `NOISE` and the numbered read-only view of the state (10_state.md R19,
R22), with the numeric codes of `FSTATE` and of the error kinds (R16, 30_encoding.md R49). -/

namespace Sys2Proof.Machine

/-- The first noise byte of a run sets `NOISE` and, if `REPORT_DESYNC`, is reported with its offset;
later bytes of the run do nothing (41_framer_rx.md R69). -/
def State.noteNoise (s : State) (off : Word32) : State :=
  if s.noise then s
  else if s.params.reportDesync then (s.setNoise true).raiseError .desync off
  else s.setNoise true

/-- The code of `FSTATE` (R16). -/
def fstateCode : FState → BitVec 2
  | .seeking => 0
  | .inFrame => 1
  | .validating => 2

/-- The code of an error kind (R49). -/
def errorCode : ErrorKind → Nat
  | .desync => 0
  | .headerCrcMismatch => 1
  | .frameCrcMismatch => 2
  | .truncated => 3

/-- Register 1, `STATUS`: [1:0] `FSTATE`, [2] `NOISE`, [31:3] zero (R22). -/
def State.statusWord (s : State) : Word32 :=
  (fstateCode s.fstate).zeroExtend 32 ||| ((BitVec.ofBool s.noise).zeroExtend 32 <<< 2)

/-- The register file of R22 as a status port or a debugger view names it. No operation reads a
register by number and none writes one; no rule depends on the numbers. -/
def State.viewRegister (s : State) (n : Nat) : Option Word32 :=
  match n with
  | 0 => some (s.crc.zeroExtend 32)
  | 1 => some s.statusWord
  | 2 => some (BitVec.ofNat 32 s.bufLen)
  | 3 => some s.pos
  | 4 => some s.frameStart
  | 5 => some (BitVec.ofNat 32 s.params.addrLen)
  | 6 => some (BitVec.ofNat 32 s.params.ctrlLen)
  | 7 => some (BitVec.ofNat 32 s.params.maxFrameLen)
  | 8 => some ((BitVec.ofBool s.params.reportDesync).zeroExtend 32)
  | _ => none

end Sys2Proof.Machine
end

