-- ==== Sys2Proof/Machine/Rx.lean ====
section
/-! DEFINITION. The six cases of `FRM.RX b` (41_framer_rx.md R67 to R74). -/

namespace Sys2Proof.Machine

/-- `RX.SEEK_FLAG`: a leading flag opens a candidate (R70). -/
def execRxSeekFlag (s : State) : Result :=
  rxCase .rxSeekFlag s fun t off =>
    .next ((((t.setFState .inFrame).setBufLen 0).setNoise false).setFrameStart off)

/-- `RX.IN_FLAG_EMPTY`: a flag after a flag becomes the opening flag; nothing is reported (R73). -/
def execRxInFlagEmpty (s : State) : Result :=
  rxCase .rxInFlagEmpty s fun t off => .next (t.setFrameStart off)

/-- `RX.IN_FLAG_CLOSE`: the flag closes the candidate, which awaits `FRM.VALIDATE` (R74). -/
def execRxInFlagClose (s : State) : Result :=
  rxCase .rxInFlagClose s fun t _ => .next (t.setFState .validating)

/-- `RX.SEEK_NOISE`: the byte is discarded as noise (R69). -/
def execRxSeekNoise (b : Byte) (s : State) : Result :=
  rxCase (.rxSeekNoise b) s fun t off => .next (t.noteNoise off)

/-- `RX.IN_DATA`: `BUF[BUFLEN] <- b`, then `BUFLEN <- BUFLEN + 1` (R71). -/
def execRxInData (b : Byte) (s : State) : Result :=
  rxCase (.rxInData b) s fun t _ =>
    match t.memWrite t.bufLen b with
    | .ok u => .next (u.setBufLen (u.bufLen + 1))
    | .error f => .fault f

/-- `RX.IN_OVERFLOW`: the overlong candidate is reported, whatever `REPORT_DESYNC` is, and dropped
with the byte (R72). -/
def execRxInOverflow (b : Byte) (s : State) : Result :=
  rxCase (.rxInOverflow b) s fun t _ => .next (t.raiseError .desync t.frameStart).dropOverlong

end Sys2Proof.Machine
end

