-- ==== Sys2Proof/Machine/Dispatch.lean ====
section
/-! DEFINITION. `exec`: the meaning of every instruction, one arm each. -/

namespace Sys2Proof.Machine

def exec (i : Instr) (s : State) : Host.Outcome State Fault Refusal :=
  match i with
  | .crcInit => Sys2Proof.Machine.execCrcInit s
  | .crcUpdate b => Sys2Proof.Machine.execCrcUpdate b s
  | .crcFinal => Sys2Proof.Machine.execCrcFinal s
  | .rxSeekFlag => Sys2Proof.Machine.execRxSeekFlag s
  | .rxInFlagEmpty => Sys2Proof.Machine.execRxInFlagEmpty s
  | .rxInFlagClose => Sys2Proof.Machine.execRxInFlagClose s
  | .rxSeekNoise b => Sys2Proof.Machine.execRxSeekNoise b s
  | .rxInData b => Sys2Proof.Machine.execRxInData b s
  | .rxInOverflow b => Sys2Proof.Machine.execRxInOverflow b s
  | .frmValidate => Sys2Proof.Machine.execFrmValidate s
  | .frmReset => Sys2Proof.Machine.execFrmReset s

end Sys2Proof.Machine
end

