-- ==== Sys2Proof/Machine/Step.lean ====
section
/-! DEFINITION. One step of the block: one operation (00_scope.md R6). -/

namespace Sys2Proof.Machine

/-- One step: idle, the framer's own `FRM.VALIDATE`, the next offered operation, or a refusal. -/
def step (s : State) : Host.Outcome State Fault Refusal :=
  match s.turn with
  | .idle => .next s
  | .sequencer => exec .frmValidate s
  | .issued i rest => exec i (s.setInput rest)
  | .rejected r => .refused r

/-- `s` with the table word `w` offered first, by the agent that owns its operation, so that the next
step runs it (notes/assumptions/2.md says how a program comes to run). -/
def State.withFetchWord (s : State) (nbits w : Nat) : State := s.offer (tableWord nbits w)

end Sys2Proof.Machine
end

