-- ==== Sys2Proof/Machine/Stimulus.lean ====
section
/-! DEFINITION. The stimulus notation and pseudo-operations (30_encoding.md R50, R51) as offered
operations. -/

namespace Sys2Proof.Machine

/-- The line `RX hh` (R50). -/
def rxIssue (b : Byte) : Issue := { agent := .src, word := encodeCmd (.frmRx b) }

/-- One line `RX hh` a byte and nothing else (R50); a closed candidate is left to the sequencer's own
schedule (notes/assumptions/3.md). -/
def rxIssues (bs : List Byte) : List Issue := bs.map rxIssue

/-- The line `VALIDATE`: the sequencer's step shown where it runs (R50). -/
def validateIssue : Issue := { agent := .frmu, word := encodeCmd .frmValidate }

/-- What the decode of `FRM.RX` reads of the state, with a new candidate open and empty (R70, R85). -/
def contextOpened (c : RxContext) : RxContext := { c with fstate := .inFrame, bufLen := 0 }

/-- The same with no candidate (R72, R91). -/
def contextSeeking (c : RxContext) : RxContext := { c with fstate := .seeking, bufLen := 0 }

/-- The context after an instruction that completes (41_framer_rx.md R68 to R74; R85, R91). -/
def contextAfter (c : RxContext) : Instr → RxContext
  | .crcInit => c
  | .crcUpdate _ => c
  | .crcFinal => c
  | .rxSeekFlag => contextOpened c
  | .rxInFlagEmpty => c
  | .rxInFlagClose => { c with fstate := .validating }
  | .rxSeekNoise _ => c
  | .rxInData _ => { c with bufLen := c.bufLen + 1 }
  | .rxInOverflow _ => contextSeeking c
  | .frmValidate => contextOpened c
  | .frmReset => contextSeeking c

/-- The context in which the next byte is accepted: a candidate already closed is validated first (R78). -/
def contextAccepting (c : RxContext) : RxContext :=
  if c.fstate = .validating then contextOpened c else c

/-- The context after the byte `b` has been accepted. -/
def contextAfterRx (c : RxContext) (b : Byte) : RxContext :=
  match selectRx (contextAccepting c) b with
  | .ok i => contextAfter (contextAccepting c) i
  | .error _ => contextAccepting c

/-- `RXS h0 h1 ... hk` from a framer in the context `c`: one `RX` a byte, "with a `VALIDATE` inserted
after every `RX 7E` that leaves `FSTATE = Validating`" (R51), so that whatever is offered next finds no
closed candidate. -/
def rxsIssues (c : RxContext) : List Byte → List Issue
  | [] => []
  | b :: bs =>
    rxIssue b ::
      ((if (contextAfterRx c b).fstate = .validating then [validateIssue] else []) ++
        rxsIssues (contextAfterRx c b) bs)

/-- The line `RESET` (R50). -/
def resetIssue : Issue := { agent := .src, word := encodeCmd .frmReset }

/-- A line of the CRC port (R50). -/
def clientIssue (c : Cmd) : Issue := { agent := .client, word := encodeCmd c }

/-- `CRC16 h0 h1 ... hk`: `CRC.INIT`, one `CRC.UPDATE` a byte, `CRC.FINAL` (R51). -/
def crc16Issues (bs : List Byte) : List Issue :=
  clientIssue .crcInit :: (bs.map fun b => clientIssue (.crcUpdate b)) ++ [clientIssue .crcFinal]

/-- The two bytes of a check field, high byte first (R40). -/
def checkBytes (v : Word16) : List Byte := [hi8 v, lo8 v]

/-- The header of a frame with its check sequence. -/
def headerContent (addr ctrl : List Byte) : List Byte :=
  addr ++ ctrl ++ checkBytes (crc16 (addr ++ ctrl))

/-- `FRAME(addr, ctrl, info)`: the content a correct sender places between two flags (R51). -/
def frameContent (addr ctrl info : List Byte) : List Byte :=
  headerContent addr ctrl ++ info ++ checkBytes (crc16 (headerContent addr ctrl ++ info))

end Sys2Proof.Machine
end

