-- ==== Sys2Proof/Safety.lean ====
section
/-! DEFINITION. What counts as a safe run, and the terms the statements use: the invariants of the state
(10_state.md R23), the content a buffer holds, and ways to compare two runs. -/

namespace Sys2Proof.Machine

/-- The invariants a step keeps. I-a holds by the type `FState`; `bounded` is I-b, `seekingEmpty` I-c,
`validatingFilled` I-d, `noiseSeeking` I-e, and `written` is I-f with I-g as far as a state can say it.
I-h speaks of earlier flags; `openOffset` and `closedOffset` say what of it a state can say: how far
`POS` has come since the opening flag. `canonical` and `inSpace` are the model's own, about the form of
the buffer, and `legal` is R9. -/
structure Inv (s : State) : Prop where
  legal : s.params.Legal
  bounded : s.bufLen ≤ s.params.maxFrameLen
  seekingEmpty : s.fstate = .seeking → s.bufLen = 0
  validatingFilled : s.fstate = .validating → 1 ≤ s.bufLen
  noiseSeeking : s.noise = true → s.fstate = .seeking
  written : ∀ i < s.bufLen, ∃ b, s.buf.read i = some b ∧ b ≠ flagByte
  openOffset : s.fstate = .inFrame → s.pos = s.frameStart + 1 + BitVec.ofNat 32 s.bufLen
  closedOffset : s.fstate = .validating → s.pos = s.frameStart + 2 + BitVec.ofNat 32 s.bufLen
  canonical : s.buf.wf
  inSpace : ∀ c ∈ s.buf, c.1 < s.params.maxFrameLen

/-- A step is safe when it does not end in a fault. -/
def NoFault (r : Result) : Prop := ∀ f, r ≠ .fault f

/-- The candidate `BUF[0..BUFLEN-1]` is the byte string `bs`. -/
abbrev State.Holds (s : State) (bs : List Byte) : Prop :=
  s.bufLen = bs.length ∧ ∀ i < bs.length, s.buf.read i = bs[i]?

/-- The fields of a candidate `c` by position (30_encoding.md R39), for comparison with what the
meanings read byte by byte. -/
def addrOf (p : Params) (c : List Byte) : List Byte := c.take p.addrLen
/-- `CTRL` of a candidate (R39). -/
def ctrlOf (p : Params) (c : List Byte) : List Byte := (c.drop p.addrLen).take p.ctrlLen
/-- `INFO` of a candidate (R39). -/
def infoOf (p : Params) (c : List Byte) : List Byte :=
  (c.drop (p.hdrLen + 2)).take (c.length - p.hdrLen - 4)
/-- The 16-bit field of a candidate at index `i` (R40). -/
def be16At (c : List Byte) (i : Nat) : Word16 := be16 (c.getD i 0) (c.getD (i + 1) 0)

/-- The three operations of the CRC port; the others are the framer's (R15). -/
def isCrcPort : Instr → Bool
  | .crcInit => true
  | .crcUpdate _ => true
  | .crcFinal => true
  | .rxSeekFlag => false
  | .rxInFlagEmpty => false
  | .rxInFlagClose => false
  | .rxSeekNoise _ => false
  | .rxInData _ => false
  | .rxInOverflow _ => false
  | .frmValidate => false
  | .frmReset => false

/-- Apply a function to the next state of a result. -/
def mapNext (f : State → State) : Result → Result
  | .next s => .next (f s)
  | .fault r => .fault r
  | .refused r => .refused r

/-- Run an instruction on the next state of a result. -/
def thenExec (r : Result) (i : Instr) : Result :=
  match r with
  | .next s => exec i s
  | .fault f => .fault f
  | .refused x => .refused x

/-- Run a sequence of instructions, stopping at the first fault or refusal. -/
def execAll : List Instr → State → Result
  | [], s => .next s
  | i :: l, s =>
    match exec i s with
    | .next t => execAll l t
    | .fault f => .fault f
    | .refused r => .refused r

/-- `k` steps, stopping at the first fault or refusal; it is `Host.Core.run` of the model's core
(`core_run_eq_run` in Laws/Ops.lean). -/
def run : Nat → State → Result
  | 0, s => .next s
  | k + 1, s =>
    match step s with
    | .next t => run k t
    | .fault f => .fault f
    | .refused r => .refused r

/-- An event without its offset. -/
def Event.eraseOffset : Event → Event
  | .payload a c i => .payload a c i
  | .error k _ => .error k 0

/-- A state without its stream positions: what is left is all that decides a transition (R20, R122). -/
def State.eraseOffsets (s : State) : State :=
  { s with pos := 0, frameStart := 0, out := s.out.map Event.eraseOffset }

end Sys2Proof.Machine
end

