-- ==== Sys2Proof/Certificates/Slice0/Obligations.lean ====
section
/-! DEFINITION. The statements for the provers. Each docstring names the rule of spec/ it formalises. An
equation with `{ s with … }` on its right is the result and the frame at once: what it does not name,
memory included, is as in `s`. -/

open Sys2Proof Sys2Proof.Machine

/-! ## Encoding -/

/-- A few words written out from R44 and R50, one or more of each family, decode to the operation they
stand for; the words of `FRM.RX` by the state they meet (R45). -/
def Obligations.WrittenWordsDecode : Prop :=
  ∀ n m : Nat,
    decode ⟨.seeking, n, m⟩ 0x0000 = .ok .crcInit ∧
    decode ⟨.seeking, n, m⟩ 0x0131 = .ok (.crcUpdate 0x31) ∧
    decode ⟨.inFrame, n, m⟩ 0x0200 = .ok .crcFinal ∧
    decode ⟨.seeking, n, m⟩ 0x1055 = .ok (.rxSeekNoise 0x55) ∧
    decode ⟨.seeking, n, m⟩ 0x107E = .ok .rxSeekFlag ∧
    decode ⟨.inFrame, 0, m⟩ 0x107E = .ok .rxInFlagEmpty ∧
    decode ⟨.inFrame, 9, m⟩ 0x107E = .ok .rxInFlagClose ∧
    decode ⟨.inFrame, 15, 16⟩ 0x10C2 = .ok (.rxInData 0xC2) ∧
    decode ⟨.inFrame, 16, 16⟩ 0x1011 = .ok (.rxInOverflow 0x11) ∧
    decode ⟨.validating, n, m⟩ 0x1100 = .ok .frmValidate ∧
    decode ⟨.validating, n, m⟩ 0x1F00 = .ok .frmReset

/-- Decode and encode agree: in a state that selects it (any state, for an instruction that is no case
of `FRM.RX`), the encoding of a well-formed instruction decodes to that instruction. -/
def Obligations.EncodeThenDecode : Prop :=
  ∀ (c : RxContext) (i : Instr), i.wellFormed = true → i.selectedIn c = true →
    decode c (encode i) = .ok i

/-- The other direction: what decodes is well formed and selected, and its encoding is the word again,
but for the low byte of an operation without operand, which is ignored and written as zero (R43). -/
def Obligations.DecodeThenEncode : Prop :=
  ∀ (c : RxContext) (w : Word16) (i : Instr), decode c w = .ok i →
    i.wellFormed = true ∧ i.selectedIn c = true ∧
    (encode i = w ∨ ((i = .crcInit ∨ i = .crcFinal ∨ i = .frmValidate ∨ i = .frmReset) ∧
      encode i = w &&& 0xFF00))

/-- R45: the table of the six cases of `FRM.RX`. The decode gives a case exactly where its row's
condition holds, and gives one in every state in which `FRM.RX` is enabled. -/
def Obligations.RxCaseTable : Prop :=
  ∀ (c : RxContext) (w : Word16) (b : Byte), opField w = 0x10 → bField w = b →
    (∀ i, decode c w = .ok i ↔
      (c.fstate = .seeking ∧ b ≠ 0x7E ∧ i = .rxSeekNoise b) ∨
      (c.fstate = .seeking ∧ b = 0x7E ∧ i = .rxSeekFlag) ∨
      (c.fstate = .inFrame ∧ b ≠ 0x7E ∧ c.bufLen < c.maxFrameLen ∧ i = .rxInData b) ∨
      (c.fstate = .inFrame ∧ b ≠ 0x7E ∧ c.bufLen = c.maxFrameLen ∧ i = .rxInOverflow b) ∨
      (c.fstate = .inFrame ∧ b = 0x7E ∧ c.bufLen = 0 ∧ i = .rxInFlagEmpty) ∨
      (c.fstate = .inFrame ∧ b = 0x7E ∧ 1 ≤ c.bufLen ∧ i = .rxInFlagClose)) ∧
    (c.fstate ≠ .validating → c.bufLen ≤ c.maxFrameLen → ∃ i, decode c w = .ok i)

/-! ## The step -/

/-- A step runs the decoded instruction: the first offered operation, if the agent that offers it owns
it, runs on the state with that operation taken off the offer; and a word placed by `withFetchWord`
runs on the very next step. -/
def Obligations.StepRunsDecodedInstruction : Prop :=
  (∀ (s : State) (q : Issue) (rest : List Issue) (cmd : Cmd) (i : Instr),
    s.params.Legal → s.input = q :: rest → decodeCmd q.word = .ok cmd → q.agent.owns cmd = true →
    decode s.rxContext q.word = .ok i → step s = exec i { s with input := rest }) ∧
  (∀ (s : State) (nbits w : Nat) (i : Instr), s.params.Legal →
    decode s.rxContext (tableWord nbits w) = .ok i → step (s.withFetchWord nbits w) = exec i s)

/-- While `FSTATE = Validating` an offered `FRM.RX` is held and no other operation is (R117): the byte and
`POS` stay. That the step on which it is held is the framer's own `FRM.VALIDATE` is the model's choice of
schedule, log entry 3. -/
def Obligations.OnlyRxIsHeldWhileValidating : Prop :=
  ∀ (s : State) (q : Issue) (rest : List Issue) (cmd : Cmd),
    s.params.Legal → s.fstate = .validating → s.input = q :: rest →
    decodeCmd q.word = .ok cmd → q.agent.owns cmd = true →
    (∀ b, cmd = .frmRx b → step s = exec .frmValidate s ∧
      ∀ t, step s = .next t → t.input = s.input ∧ t.pos = s.pos) ∧
    ((∀ b, cmd ≠ .frmRx b) →
      ∃ i : Instr, i.cmd = cmd ∧ step s = exec i { s with input := rest })

/-- R107: when no operation is issued (nothing is offered, and no closed candidate lets the framer
issue its own) the block does nothing and keeps all state. -/
def Obligations.IdleKeepsAllState : Prop :=
  ∀ s : State, s.params.Legal → s.input = [] → s.fstate ≠ .validating → step s = .next s

/-- With nothing offered, a closed candidate is validated by the framer's own step. The model's choice of
when the sequencer runs is log entry 3. -/
def Obligations.ClosedCandidateIsValidatedUnasked : Prop :=
  ∀ s : State, s.params.Legal → s.input = [] → s.fstate = .validating →
    step s = exec .frmValidate s

/-- R46: a reserved operation code, or `FRM.VALIDATE` issued from outside, is refused; a non-zero `b`
of an operation without operand is ignored; `FSTATE` code 3 is unreachable. -/
def Obligations.ReservedCommandIsRefused : Prop :=
  (∀ (s : State) (q : Issue) (rest : List Issue), s.params.Legal → s.input = q :: rest →
    (opField q.word ≠ 0x00 → opField q.word ≠ 0x01 → opField q.word ≠ 0x02 →
      opField q.word ≠ 0x10 → opField q.word ≠ 0x11 → opField q.word ≠ 0x1F →
      step s = .refused (.reservedOp (opField q.word))) ∧
    (opField q.word = 0x11 → q.agent ≠ .frmu → step s = .refused (.notIssuable q.agent))) ∧
  (∀ (c : RxContext) (op b : Byte), op = 0x00 ∨ op = 0x02 ∨ op = 0x11 ∨ op = 0x1F →
    decode c (cmdWord op b) = decode c (cmdWord op 0)) ∧
  (∀ f : FState, fstateCode f ≠ 3)

/-! ## The CRC unit -/

/-- R54: the bit step as arithmetic on natural numbers, masked to 16 bits. -/
def Obligations.BitStepIsMaskedShift : Prop :=
  ∀ r : Word16, (bitStep r).toNat =
    if 0x8000 ≤ r.toNat then ((r.toNat <<< 1) ^^^ 0x1021) &&& 0xFFFF else (r.toNat <<< 1) &&& 0xFFFF

/-- R57: `CRC.INIT` writes 0xFFFF and nothing else, in every state. -/
def Obligations.CrcInitLoadsInitialValue : Prop :=
  ∀ s : State, exec .crcInit s = .next { s with crc := 0xFFFF }

/-- R58 with R55: `CRC.UPDATE b` XORs the byte into bits [15:8] and applies the bit step eight times. -/
def Obligations.CrcUpdateAppliesEightSteps : Prop :=
  ∀ (s : State) (b : Byte), exec (.crcUpdate b) s = .next { s with
    crc := bitStep (bitStep (bitStep (bitStep (bitStep (bitStep (bitStep (bitStep
      (s.crc ^^^ (b.zeroExtend 16 <<< 8))))))))) }

/-- R63: the byte update in table form, on the register `CRC UPDATE` writes. -/
def Obligations.CrcUpdateTableForm : Prop :=
  ∀ (s t : State) (b : Byte), exec (.crcUpdate b) s = .next t →
    t.crc = (s.crc <<< 8) ^^^ bitSteps 8 ((s.crc.extractLsb' 8 8 ^^^ b).zeroExtend 16 <<< 8)

/-- R59: `CRC.FINAL` returns `CRC xor 0xFFFF` and writes no register. -/
def Obligations.CrcFinalReturnsComplement : Prop :=
  ∀ s : State, exec .crcFinal s = .next { s with returned := s.returned ++ [s.crc ^^^ 0xFFFF] }

/-- R60: the port sequence equals the function. For every byte string and every starting state, the
operations of `CRC16` return `crc16` of it and leave `CRC = raw` of it. -/
def Obligations.CrcPortRealisesCrc16 : Prop :=
  ∀ (s : State) (bs : List Byte) (rest : List Issue), s.params.Legal →
    s.input = crc16Issues bs ++ rest →
    run (bs.length + 2) s =
      .next { s with crc := crcRaw bs, returned := s.returned ++ [crc16 bs], input := rest }

/-- R62: both residues, for every byte string. -/
def Obligations.CrcResidueIsConstant : Prop :=
  ∀ d : List Byte,
    crcRaw (d ++ [hi8 (crc16 d), lo8 (crc16 d)]) = 0x1D0F ∧
    crc16 (d ++ [hi8 (crc16 d), lo8 (crc16 d)]) = 0xE2F0 ∧
    crcRaw (d ++ [hi8 (crcRaw d), lo8 (crcRaw d)]) = 0x0000 ∧
    crc16 (d ++ [hi8 (crcRaw d), lo8 (crcRaw d)]) = 0xFFFF

/-! ## The input side of the framer -/

/-- R69: noise in `Seeking` is discarded; the first byte of a run sets `NOISE` and is reported, with its
offset, if `REPORT_DESYNC`. -/
def Obligations.NoiseByteIsDiscarded : Prop :=
  ∀ (s : State) (b : Byte), s.fstate = .seeking → b ≠ 0x7E →
    exec (.rxSeekNoise b) s = .next { s with
      pos := s.pos + 1
      noise := true
      out := if s.noise = false ∧ s.params.reportDesync = true then s.out ++ [.error .desync s.pos]
        else s.out }

/-- R70: a flag in `Seeking` opens a candidate. -/
def Obligations.LeadingFlagOpensCandidate : Prop :=
  ∀ s : State, s.fstate = .seeking → exec .rxSeekFlag s = .next { s with
    pos := s.pos + 1, fstate := .inFrame, bufLen := 0, noise := false, frameStart := s.pos }

/-- R71: a data byte is stored at index `BUFLEN`, which is then incremented; every other byte of the
buffer reads as before. -/
def Obligations.DataByteIsStored : Prop :=
  ∀ (s : State) (b : Byte), s.fstate = .inFrame → b ≠ 0x7E → s.bufLen < s.params.maxFrameLen →
    ∃ t, exec (.rxInData b) s = .next t ∧
      t = { s with pos := s.pos + 1, bufLen := s.bufLen + 1, buf := t.buf } ∧
      t.buf.read s.bufLen = some b ∧
      ∀ a, a ≠ s.bufLen → t.buf.read a = s.buf.read a

/-- R72: the byte over the cap drops the candidate with one `ERROR(Desync, FRAME_START)`, whatever
`REPORT_DESYNC` is. -/
def Obligations.OverflowDropsCandidate : Prop :=
  ∀ (s : State) (b : Byte), s.fstate = .inFrame → b ≠ 0x7E → s.bufLen = s.params.maxFrameLen →
    exec (.rxInOverflow b) s = .next { s with
      pos := s.pos + 1, bufLen := 0, fstate := .seeking, noise := true
      out := s.out ++ [.error .desync s.frameStart] }

/-- R73: a flag directly after a flag becomes the opening flag and reports nothing. -/
def Obligations.RepeatedFlagReopensCandidate : Prop :=
  ∀ s : State, s.fstate = .inFrame → s.bufLen = 0 →
    exec .rxInFlagEmpty s = .next { s with pos := s.pos + 1, frameStart := s.pos }

/-- R74: a flag after content closes the candidate. -/
def Obligations.ClosingFlagAwaitsValidation : Prop :=
  ∀ s : State, s.fstate = .inFrame → 1 ≤ s.bufLen →
    exec .rxInFlagClose s = .next { s with pos := s.pos + 1, fstate := .validating }

/-- A case of `FRM.RX` executed where it is not the selected one has no effect to give: it is refused, as
held in `Validating` (R78) and by another name elsewhere. The step never asks for it. The model's
choice, log entry 5. -/
def Obligations.UnselectedRxCaseIsRefused : Prop :=
  ∀ (s : State) (i : Instr) (b : Byte), i.cmd = .frmRx b →
    (s.fstate = .validating → exec i s = .refused .rxHeld) ∧
    (s.fstate ≠ .validating → decode s.rxContext (encode i) ≠ .ok i →
      exec i s = .refused .rxCaseNotSelected)

/-- R119: a frame longer than `MAX_FRAME_LEN` is dropped with exactly one `ERROR(Desync, …)`, the rest
of it is discarded in silence, and its closing flag opens a candidate. -/
def Obligations.OverlongFrameIsLost : Prop :=
  ∀ (s : State) (bs : List Byte) (rest : List Issue), s.params.Legal →
    s.fstate = .inFrame → s.bufLen = 0 → (0x7E : Byte) ∉ bs → s.params.maxFrameLen < bs.length →
    s.input = rxIssues (bs ++ [0x7E]) ++ rest →
    ∃ t, run (bs.length + 1) s = .next t ∧
      t = { s with
        pos := s.pos + BitVec.ofNat 32 (bs.length + 1)
        frameStart := s.pos + BitVec.ofNat 32 bs.length
        buf := t.buf, noise := false
        out := s.out ++ [.error .desync s.frameStart], input := rest }

/-! ## The validation side of the framer -/

/-- R86: the complete order of the checks, the one event, and the epilogue, on a candidate of content
`bs`; its fields are cut by position (R39). -/
def Obligations.ValidateChecksInOrder : Prop :=
  ∀ (s : State) (bs : List Byte), s.fstate = .validating → s.Holds bs →
    exec .frmValidate s = .next { s with
      out := s.out ++ [
        if bs.length < s.params.hdrLen + 4 then .error .truncated s.frameStart
        else if be16At bs s.params.hdrLen ≠ crc16 (bs.take s.params.hdrLen) then
          .error .headerCrcMismatch s.frameStart
        else if be16At bs (bs.length - 2) ≠ crc16 (bs.take (bs.length - 2)) then
          .error .frameCrcMismatch s.frameStart
        else .payload (bs.take s.params.addrLen) ((bs.drop s.params.addrLen).take s.params.ctrlLen)
          ((bs.drop (s.params.hdrLen + 2)).take (bs.length - s.params.hdrLen - 4))]
      bufLen := 0, fstate := .inFrame, frameStart := s.pos - 1 }

/-- R89: the residue form. One CRC register over the whole content, tested at two points against 0x1D0F,
gives the same verdict as the two comparisons. -/
def Obligations.ResidueFormOfValidation : Prop :=
  ∀ (s : State) (bs : List Byte), s.fstate = .validating → s.Holds bs →
    s.params.hdrLen + 4 ≤ bs.length →
    exec .frmValidate s = .next { s with
      out := s.out ++ [
        if crcRaw (bs.take (s.params.hdrLen + 2)) ≠ 0x1D0F then .error .headerCrcMismatch s.frameStart
        else if crcRaw bs ≠ 0x1D0F then .error .frameCrcMismatch s.frameStart
        else .payload (addrOf s.params bs) (ctrlOf s.params bs) (infoOf s.params bs)]
      bufLen := 0, fstate := .inFrame, frameStart := s.pos - 1 }

/-- `FRM.VALIDATE` completes with exactly one event whenever every byte below `BUFLEN` has been written,
which the invariants say of every reachable state. -/
def Obligations.ValidateEmitsOneEvent : Prop :=
  ∀ s : State, s.fstate = .validating → (∀ i < s.bufLen, ∃ b, s.buf.read i = some b) →
    ∃ t e, exec .frmValidate s = .next t ∧ t = { s with
      out := s.out ++ [e], bufLen := 0, fstate := .inFrame, frameStart := s.pos - 1 }

/-- `FRM.VALIDATE` is enabled only in `Validating`; elsewhere the model refuses it (log entry 6). -/
def Obligations.ValidateNeedsClosedCandidate : Prop :=
  ∀ s : State, s.fstate ≠ .validating → exec .frmValidate s = .refused .validateNotEnabled

/-- R88: a frame with an empty information field. Its frame check sequence is `E2 F0` whatever the
header is, and it is accepted with an empty payload. -/
def Obligations.EmptyInfoFrameIsAccepted : Prop :=
  ∀ (s : State) (addr ctrl : List Byte),
    addr.length = s.params.addrLen → ctrl.length = s.params.ctrlLen → s.fstate = .validating →
    s.Holds (frameContent addr ctrl []) →
    frameContent addr ctrl [] = headerContent addr ctrl ++ [0xE2, 0xF0] ∧
    exec .frmValidate s = .next { s with
      out := s.out ++ [.payload addr ctrl []]
      bufLen := 0, fstate := .inFrame, frameStart := s.pos - 1 }

/-- R90: a well-formed content less its last `k` bytes. If nothing is left the two flags are adjacent
and nothing is emitted; else the verdict is `Truncated`, or `FrameCrcMismatch`, or, if the two bytes now
in the place of the frame check sequence happen to fit, a shortened payload. -/
def Obligations.TrailingTruncationVerdict : Prop :=
  ∀ (s : State) (addr ctrl info bs : List Byte) (k : Nat),
    addr.length = s.params.addrLen → ctrl.length = s.params.ctrlLen →
    1 ≤ k → k ≤ (frameContent addr ctrl info).length →
    bs = (frameContent addr ctrl info).take ((frameContent addr ctrl info).length - k) →
    (bs.length = 0 → s.fstate = .inFrame → s.Holds bs →
      exec .rxInFlagEmpty s = .next { s with pos := s.pos + 1, frameStart := s.pos }) ∧
    (1 ≤ bs.length → s.fstate = .validating → s.Holds bs →
      exec .frmValidate s = .next { s with
        out := s.out ++ [
          if bs.length < s.params.minFrameLen then .error .truncated s.frameStart
          else if be16At bs (bs.length - 2) ≠ crc16 (bs.take (bs.length - 2)) then
            .error .frameCrcMismatch s.frameStart
          else .payload addr ctrl (infoOf s.params bs)]
        bufLen := 0, fstate := .inFrame, frameStart := s.pos - 1 })

/-- R91: `FRM.RESET` completes in every state; the framer's registers take their reset values, `CRC`,
the parameters and the observations stay, nothing is emitted. Nothing is said of `BUF`, whose contents
are unspecified afterwards. -/
def Obligations.FramerResetRestoresFramer : Prop :=
  ∀ s : State, ∃ t, exec .frmReset s = .next t ∧
    t = { s with fstate := .seeking, bufLen := 0, noise := false, pos := 0, frameStart := 0,
                 buf := t.buf }

/-! ## Reset and the invariants -/

/-- R112: every piece of state after power-on reset, and after `FRM.RESET`. -/
def Obligations.ResetStateTable : Prop :=
  (∀ p : Params,
    (State.powerOn p).crc = 0xFFFF ∧ (State.powerOn p).fstate = .seeking ∧
    (State.powerOn p).bufLen = 0 ∧ (State.powerOn p).noise = false ∧ (State.powerOn p).pos = 0 ∧
    (State.powerOn p).frameStart = 0 ∧ (State.powerOn p).params = p ∧ (State.powerOn p).out = []) ∧
  (∀ s t : State, exec .frmReset s = .next t →
    t.crc = s.crc ∧ t.fstate = .seeking ∧ t.bufLen = 0 ∧ t.noise = false ∧ t.pos = 0 ∧
    t.frameStart = 0 ∧ t.params = s.params ∧ t.out = s.out)

/-- The invariants hold after power-on reset of every legal block, and at `State.reset`, whose
parameters are the model's choice (log entry 1). -/
def Obligations.ResetMeetsInvariant : Prop :=
  (∀ p : Params, p.Legal → Inv (State.powerOn p)) ∧ Inv State.reset

/-- Every step keeps the invariants of R23 and the canonical form of the buffer, from every state that
meets them and whatever is offered. -/
def Obligations.StepKeepsInvariant : Prop :=
  ∀ s t : State, Inv s → step s = .next t → Inv t

/-- No step faults from a state that meets the invariants: no rule issues an illegal buffer access, and
no byte is read before it is written (20_memory.md R27). -/
def Obligations.StepNeverFaults : Prop :=
  ∀ s : State, Inv s → NoFault (step s)

/-! ## Rules about the whole machine -/

/-- R68: the complete transition table of `FSTATE`. Whatever completes makes one of its transitions, and
the operations it does not name make none. -/
def Obligations.FStateTransitionTable : Prop :=
  ∀ (s t : State) (i : Instr), exec i s = .next t →
    match i with
    | .rxSeekNoise b => s.fstate = .seeking ∧ b ≠ 0x7E ∧ t.fstate = .seeking
    | .rxSeekFlag => s.fstate = .seeking ∧ t.fstate = .inFrame
    | .rxInData b =>
      s.fstate = .inFrame ∧ b ≠ 0x7E ∧ s.bufLen < s.params.maxFrameLen ∧ t.fstate = .inFrame
    | .rxInOverflow b =>
      s.fstate = .inFrame ∧ b ≠ 0x7E ∧ s.bufLen = s.params.maxFrameLen ∧ t.fstate = .seeking
    | .rxInFlagEmpty => s.fstate = .inFrame ∧ s.bufLen = 0 ∧ t.fstate = .inFrame
    | .rxInFlagClose => s.fstate = .inFrame ∧ 1 ≤ s.bufLen ∧ t.fstate = .validating
    | .frmValidate => s.fstate = .validating ∧ t.fstate = .inFrame
    | .frmReset => t.fstate = .seeking
    | .crcInit => t.fstate = s.fstate
    | .crcUpdate _ => t.fstate = s.fstate
    | .crcFinal => t.fstate = s.fstate

/-- R15: the two units share no state. A CRC port operation writes only `CRC` and the returned values,
and what it writes depends on `CRC` alone; a framer operation neither reads nor writes them. -/
def Obligations.UnitsShareNoState : Prop :=
  ∀ (s : State) (i j : Instr), isCrcPort i = true → isCrcPort j = false →
    (∃ t ws, exec i s = .next t ∧ t = { s with crc := t.crc, returned := s.returned ++ ws } ∧
      ∀ s' t', s'.crc = s.crc → exec i s' = .next t' →
        t'.crc = t.crc ∧ t'.returned = s'.returned ++ ws) ∧
    (∀ (v : Word16) (l : List Word16),
      exec j { s with crc := v, returned := l } =
        mapNext (fun t => { t with crc := v, returned := l }) (exec j s))

/-- The consequence of R15: any interleaving of CRC port and framer operations ends as the port's
operations alone, followed by the framer's alone, end; a stop of the one is the stop of the other. -/
def Obligations.UnitsRunApart : Prop :=
  ∀ (s : State) (l : List Instr),
    execAll l s =
      execAll (l.filter (fun i => isCrcPort i) ++ l.filter (fun i => !isCrcPort i)) s

/-- Who writes `NOISE`, and to what (10_state.md R19). -/
def Obligations.NoiseFlagWriters : Prop :=
  ∀ (s t : State) (i : Instr), exec i s = .next t →
    t.noise = match i with
      | .rxSeekNoise _ => true
      | .rxInOverflow _ => true
      | .rxSeekFlag => false
      | .frmReset => false
      | .rxInData _ => s.noise
      | .rxInFlagEmpty => s.noise
      | .rxInFlagClose => s.noise
      | .frmValidate => s.noise
      | .crcInit => s.noise
      | .crcUpdate _ => s.noise
      | .crcFinal => s.noise

/-- Who writes `POS` and `FRAME_START`, and to what (R20, R21): every case of `FRM.RX` counts its byte,
and a flag that opens a candidate leaves its offset. -/
def Obligations.StreamPositionWriters : Prop :=
  ∀ (s t : State) (i : Instr), exec i s = .next t →
    (t.pos = match i.cmd with
      | .frmRx _ => s.pos + 1
      | .frmReset => 0
      | .frmValidate => s.pos
      | .crcInit => s.pos
      | .crcUpdate _ => s.pos
      | .crcFinal => s.pos) ∧
    (t.frameStart = match i with
      | .rxSeekFlag => s.pos
      | .rxInFlagEmpty => s.pos
      | .frmValidate => s.pos - 1
      | .frmReset => 0
      | .rxSeekNoise _ => s.frameStart
      | .rxInData _ => s.frameStart
      | .rxInOverflow _ => s.frameStart
      | .rxInFlagClose => s.frameStart
      | .crcInit => s.frameStart
      | .crcUpdate _ => s.frameStart
      | .crcFinal => s.frameStart)

/-- The buffer's frame: a data byte changes only index `BUFLEN`, `FRM.RESET` leaves the contents
unspecified, and every other operation leaves every byte as it was (R26, R27, R85). -/
def Obligations.BufferWrittenOnlyByDataByte : Prop :=
  ∀ (s t : State) (i : Instr), exec i s = .next t → i ≠ .frmReset →
    ∀ a, ((∀ b, i ≠ .rxInData b) ∨ a ≠ s.bufLen) → t.buf.read a = s.buf.read a

/-- The parameters are constants that no operation writes (R9), and an operation takes nothing off the
offer but itself. -/
def Obligations.ParametersAreConstant : Prop :=
  ∀ s t : State, step s = .next t →
    t.params = s.params ∧ (t.input = s.input ∨ ∃ q, s.input = q :: t.input)

/-- At most one event per operation, and who emits which: only noise and overflow emit, of the cases of
`FRM.RX`, and only `ERROR(Desync, …)`; `FRM.VALIDATE` emits exactly one event of another kind. -/
def Obligations.AtMostOneEventPerOperation : Prop :=
  ∀ (s t : State) (i : Instr), exec i s = .next t →
    (i = .frmValidate ∧ ∃ e, t.out = s.out ++ [e] ∧ ∀ off, e ≠ .error .desync off) ∨
    (i ≠ .frmValidate ∧ t.out = s.out) ∨
    (∃ b, i = .rxSeekNoise b ∧ t.out = s.out ++ [.error .desync s.pos]) ∨
    (∃ b, i = .rxInOverflow b ∧ t.out = s.out ++ [.error .desync s.frameStart])

/-- What a payload carries: the fields have the lengths of R48, and no byte of it is the flag, since a
0x7E is never stored (R42, R23 I-f). -/
def Obligations.PayloadIsWellShaped : Prop :=
  ∀ (s t : State) (addr ctrl info : List Byte), Inv s → step s = .next t →
    t.out = s.out ++ [.payload addr ctrl info] →
    addr.length = s.params.addrLen ∧ ctrl.length = s.params.ctrlLen ∧
    info.length + s.params.hdrLen + 4 = s.bufLen ∧
    (0x7E : Byte) ∉ addr ++ ctrl ++ info

/-- Stream positions only report: two states that differ in `POS`, `FRAME_START` and offsets already
reported take the same step but for those. So no acceptance, rejection, transition, error kind or payload
depends on them (R20, R122). -/
def Obligations.StreamPositionsOnlyReport : Prop :=
  ∀ s s' : State, s.eraseOffsets = s'.eraseOffsets →
    mapNext State.eraseOffsets (step s) = mapNext State.eraseOffsets (step s')

/-- The numbered view of the state (R22), register by register: what each shows, that `STATUS` shows only
legal values, that no other number is a register, and that `BUFLEN` fits the width of R13. That register 0
reads uncomplemented, and that lengths are shown modulo 2^32, is log entry 13. -/
def Obligations.StatusViewIsLegal : Prop :=
  ∀ s : State, Inv s →
    s.viewRegister 0 = some (BitVec.ofNat 32 s.crc.toNat) ∧
    (∃ w, s.viewRegister 1 = some w ∧
      w.extractLsb' 0 2 = (match s.fstate with
        | .seeking => 0
        | .inFrame => 1
        | .validating => 2) ∧
      w.getLsbD 2 = s.noise ∧ w.extractLsb' 3 29 = 0 ∧ (w = 0 ∨ w = 1 ∨ w = 2 ∨ w = 4)) ∧
    s.viewRegister 2 = some (BitVec.ofNat 32 s.bufLen) ∧
    s.viewRegister 3 = some s.pos ∧ s.viewRegister 4 = some s.frameStart ∧
    s.viewRegister 5 = some (BitVec.ofNat 32 s.params.addrLen) ∧
    s.viewRegister 6 = some (BitVec.ofNat 32 s.params.ctrlLen) ∧
    s.viewRegister 7 = some (BitVec.ofNat 32 s.params.maxFrameLen) ∧
    s.viewRegister 8 = some (if s.params.reportDesync = true then 1 else 0) ∧
    (∀ n, (s.viewRegister n).isSome = true ↔ n ≤ 8) ∧
    s.bufLen < 2 ^ s.params.bufLenWidth

/-! ## Progress and delivery -/

/-- From any state that meets the invariants a flag, followed by the framer's own validation where the
candidate is closed, brings the framer to `InFrame` with an empty buffer (the first half of R77). -/
def Obligations.FlagResynchronises : Prop :=
  ∀ s : State, Inv s → s.input = [rxIssue 0x7E] →
    ∃ k t, k ≤ 2 ∧ run k s = .next t ∧
      t.fstate = .inFrame ∧ t.bufLen = 0 ∧ t.noise = false ∧ t.input = []

/-- A well-formed frame content followed by a flag is accepted from any state reached just after a flag
has been processed: its bytes are taken in, validated, and leave as exactly one payload (R77, R114). -/
def Obligations.WellFormedFrameIsDelivered : Prop :=
  ∀ (s : State) (addr ctrl info : List Byte) (rest : List Issue),
    s.params.Legal → s.fstate = .inFrame → s.bufLen = 0 →
    addr.length = s.params.addrLen → ctrl.length = s.params.ctrlLen →
    (0x7E : Byte) ∉ frameContent addr ctrl info →
    (frameContent addr ctrl info).length ≤ s.params.maxFrameLen →
    s.input = rxIssues (frameContent addr ctrl info ++ [0x7E]) ++ validateIssue :: rest →
    ∃ t, run ((frameContent addr ctrl info).length + 2) s = .next t ∧
      t = { s with
        pos := s.pos + BitVec.ofNat 32 ((frameContent addr ctrl info).length + 1)
        frameStart := s.pos + BitVec.ofNat 32 (frameContent addr ctrl info).length
        buf := t.buf, out := s.out ++ [.payload addr ctrl info], input := rest }

/-- Whatever came before, the next well-formed frame still decodes: from any state that meets the
invariants, an opening flag, the content and a closing flag end in its payload, with at most one event
before it (R77: a corrupted candidate left over, or nothing). -/
def Obligations.NextFrameSurvivesCorruption : Prop :=
  ∀ (s : State) (addr ctrl info : List Byte),
    Inv s → addr.length = s.params.addrLen → ctrl.length = s.params.ctrlLen →
    (0x7E : Byte) ∉ frameContent addr ctrl info →
    (frameContent addr ctrl info).length ≤ s.params.maxFrameLen →
    s.input = rxIssues (0x7E :: frameContent addr ctrl info ++ [0x7E]) →
    ∃ k t before, run k s = .next t ∧
      t.out = s.out ++ before ++ [.payload addr ctrl info] ∧ before.length ≤ 1 ∧
      t.fstate = .inFrame ∧ t.bufLen = 0 ∧ t.input = []

/-- `RXS` (30_encoding.md R51) over any bytes, whatever is offered after it: one step a line takes in
every byte, runs every validation, and leaves no closed candidate to what follows. It ends as the plain
`RX` lines alone end under the sequencer's own schedule, which is log entry 3. -/
def Obligations.RxsValidatesEveryCandidate : Prop :=
  ∀ (s : State) (bs : List Byte) (rest : List Issue),
    Inv s → s.fstate ≠ .validating → s.input = rxsIssues s.rxContext bs ++ rest →
    ∃ t, run (rxsIssues s.rxContext bs).length s = .next t ∧
      t.fstate ≠ .validating ∧ t.pos = s.pos + BitVec.ofNat 32 bs.length ∧ t.input = rest ∧
      t.crc = s.crc ∧ t.returned = s.returned ∧
      ∃ k, run k { s with input := rxIssues bs } = .next { t with input := [] }
end

