-- ==== Sys2Proof/Laws/Crc.lean ====
section
/-! SUPPORT. The bit step and its iterates are linear over XOR, which is what the table form (R63) and the
residue (R62) rest on. -/

namespace Sys2Proof.Machine

@[simp] theorem bitStep_zero : bitStep 0 = 0 := by decide

/-- `step` is linear over XOR. -/
theorem bitStep_xor (a b : Word16) : bitStep (a ^^^ b) = bitStep a ^^^ bitStep b := by
  simp only [bitStep, BitVec.getLsbD_xor]
  cases a.getLsbD 15 <;> cases b.getLsbD 15 <;> simp [BitVec.shiftLeft_xor_distrib]
  · rw [BitVec.xor_assoc]
  · rw [BitVec.xor_assoc, BitVec.xor_assoc, BitVec.xor_comm (b <<< 1)]
  · rw [show a <<< 1 ^^^ crcPoly ^^^ (b <<< 1 ^^^ crcPoly)
        = a <<< 1 ^^^ b <<< 1 ^^^ (crcPoly ^^^ crcPoly) by ac_rfl]
    simp

@[simp] theorem bitSteps_zero (k : Nat) : bitSteps k 0 = 0 := by
  induction k with
  | zero => rfl
  | succ k ih => rw [bitSteps, bitStep_zero, ih]

/-- Any number of steps is linear over XOR. -/
theorem bitSteps_xor (k : Nat) (a b : Word16) :
    bitSteps k (a ^^^ b) = bitSteps k a ^^^ bitSteps k b := by
  induction k generalizing a b with
  | zero => rfl
  | succ k ih => rw [bitSteps, bitSteps, bitSteps, bitStep_xor, ih]

/-- A step with bit 15 clear is a shift (R54). -/
theorem bitStep_of_clear {r : Word16} (h : r.getLsbD 15 = false) : bitStep r = r <<< 1 := by
  rw [bitStep, h]; rfl

/-- The byte update is linear over XOR, of register and byte together. -/
theorem byteUpdate_xor (r r' : Word16) (b b' : Byte) :
    byteUpdate (r ^^^ r') (b ^^^ b') = byteUpdate r b ^^^ byteUpdate r' b' := by
  rw [byteUpdate, byteUpdate, byteUpdate, ← bitSteps_xor]
  congr 1
  apply BitVec.eq_of_getLsbD_eq
  intro i hi
  simp [hi]
  cases r.getLsbD i <;> cases r'.getLsbD i <;> cases b.getLsbD (i - 8) <;>
    cases b'.getLsbD (i - 8) <;> cases decide (i < 8) <;> simp

/-- Folding over a concatenation continues from the register so far (R64). -/
theorem crcRaw_append (s t : List Byte) : crcRaw (s ++ t) = t.foldl byteUpdate (crcRaw s) := by
  simp [crcRaw]

@[simp] theorem crcFinish_crcFinish (r : Word16) : crcFinish (crcFinish r) = r := by
  simp [crcFinish]

end Sys2Proof.Machine
end

