-- ==== Sys2Proof/Laws/Decode.lean ====
section
/-! SUPPORT. The fields of a command word, and what the decoder and the case selection answer. -/

namespace Sys2Proof

@[simp] theorem opField_cmdWord (op b : Byte) : opField (cmdWord op b) = op := by
  apply BitVec.eq_of_getLsbD_eq
  intro i hi
  simp [opField, cmdWord, hi, show 8 + i < 16 by omega]

@[simp] theorem bField_cmdWord (op b : Byte) : bField (cmdWord op b) = b := by
  apply BitVec.eq_of_getLsbD_eq
  intro i hi
  simp [bField, cmdWord, hi, show i < 16 by omega]

/-- A word is its two fields (R43). -/
theorem cmdWord_fields (w : Word16) : cmdWord (opField w) (bField w) = w := by
  apply BitVec.eq_of_getLsbD_eq
  intro i hi
  by_cases h : i < 8
  · simp [cmdWord, opField, bField, h, hi]
  · simp [cmdWord, opField, bField, h, hi, show i - 8 < 8 by omega, show 8 + (i - 8) = i by omega]

/-- The command word of a command decodes to the command. -/
@[simp] theorem decodeCmd_encodeCmd (cmd : Cmd) : decodeCmd (encodeCmd cmd) = .ok cmd := by
  cases cmd <;> simp [encodeCmd, decodeCmd]

/-- Decoding is reading the command, then resolving it. -/
theorem decode_of_cmd {w : Word16} {cmd : Cmd} (h : decodeCmd w = .ok cmd) (c : RxContext) :
    decode c w = resolve c cmd := by simp [decode, h]

/-- What the decoder reads as an `FRM.RX` is the code 0x10 with any byte (R44). -/
theorem decodeCmd_eq_frmRx {w : Word16} {b : Byte} :
    decodeCmd w = .ok (.frmRx b) ↔ opField w = 0x10 ∧ bField w = b := by
  simp only [decodeCmd]
  split_ifs <;> simp_all

/-- Everything the case selection of R45 can answer. -/
theorem selectRx_cases {c : RxContext} {b : Byte} {i : Instr} (h : selectRx c b = .ok i) :
    (c.fstate = .seeking ∧ b = flagByte ∧ i = .rxSeekFlag) ∨
    (c.fstate = .seeking ∧ b ≠ flagByte ∧ i = .rxSeekNoise b) ∨
    (c.fstate = .inFrame ∧ b = flagByte ∧ c.bufLen = 0 ∧ i = .rxInFlagEmpty) ∨
    (c.fstate = .inFrame ∧ b = flagByte ∧ c.bufLen ≠ 0 ∧ i = .rxInFlagClose) ∨
    (c.fstate = .inFrame ∧ b ≠ flagByte ∧ c.bufLen < c.maxFrameLen ∧ i = .rxInData b) ∨
    (c.fstate = .inFrame ∧ b ≠ flagByte ∧ c.bufLen = c.maxFrameLen ∧ i = .rxInOverflow b) := by
  cases hf : c.fstate with
  | validating => simp [selectRx, hf] at h
  | _ => simp only [selectRx, hf] at h; split_ifs at h <;> simp_all [eq_comm]

/-- What the case selection answers is selected (R45). -/
theorem selectedIn_of_selectRx {c : RxContext} {b : Byte} {i : Instr} (h : selectRx c b = .ok i) :
    i.selectedIn c = true := by
  rcases selectRx_cases h with ⟨h1, h2, rfl⟩ | ⟨h1, h2, rfl⟩ | ⟨h1, h2, h3, rfl⟩ | ⟨h1, h2, h3, rfl⟩ |
    ⟨h1, h2, h3, rfl⟩ | ⟨h1, h2, h3, rfl⟩ <;> simp_all [Instr.selectedIn, Nat.one_le_iff_ne_zero]

end Sys2Proof
end

