-- ==== Sys2Proof/Laws/State.lean ====
section
/-! SUPPORT. One lemma per field per state update, true by rfl, so that no proof unfolds an update. -/

namespace Sys2Proof.Machine

variable (s : State)

@[simp] theorem setCrc_params (v : Word16) : (s.setCrc v).params = s.params := rfl
@[simp] theorem setCrc_crc (v : Word16) : (s.setCrc v).crc = v := rfl
@[simp] theorem setCrc_fstate (v : Word16) : (s.setCrc v).fstate = s.fstate := rfl
@[simp] theorem setCrc_bufLen (v : Word16) : (s.setCrc v).bufLen = s.bufLen := rfl
@[simp] theorem setCrc_buf (v : Word16) : (s.setCrc v).buf = s.buf := rfl
@[simp] theorem setCrc_noise (v : Word16) : (s.setCrc v).noise = s.noise := rfl
@[simp] theorem setCrc_pos (v : Word16) : (s.setCrc v).pos = s.pos := rfl
@[simp] theorem setCrc_frameStart (v : Word16) : (s.setCrc v).frameStart = s.frameStart := rfl
@[simp] theorem setCrc_out (v : Word16) : (s.setCrc v).out = s.out := rfl
@[simp] theorem setCrc_returned (v : Word16) : (s.setCrc v).returned = s.returned := rfl
@[simp] theorem setCrc_input (v : Word16) : (s.setCrc v).input = s.input := rfl

@[simp] theorem returnWord_params (v : Word16) : (s.returnWord v).params = s.params := rfl
@[simp] theorem returnWord_crc (v : Word16) : (s.returnWord v).crc = s.crc := rfl
@[simp] theorem returnWord_fstate (v : Word16) : (s.returnWord v).fstate = s.fstate := rfl
@[simp] theorem returnWord_bufLen (v : Word16) : (s.returnWord v).bufLen = s.bufLen := rfl
@[simp] theorem returnWord_buf (v : Word16) : (s.returnWord v).buf = s.buf := rfl
@[simp] theorem returnWord_noise (v : Word16) : (s.returnWord v).noise = s.noise := rfl
@[simp] theorem returnWord_pos (v : Word16) : (s.returnWord v).pos = s.pos := rfl
@[simp] theorem returnWord_frameStart (v : Word16) : (s.returnWord v).frameStart = s.frameStart := rfl
@[simp] theorem returnWord_out (v : Word16) : (s.returnWord v).out = s.out := rfl
@[simp] theorem returnWord_returned (v : Word16) : (s.returnWord v).returned = s.returned ++ [v] := rfl
@[simp] theorem returnWord_input (v : Word16) : (s.returnWord v).input = s.input := rfl

@[simp] theorem acceptByte_params : (s.acceptByte).params = s.params := rfl
@[simp] theorem acceptByte_crc : (s.acceptByte).crc = s.crc := rfl
@[simp] theorem acceptByte_fstate : (s.acceptByte).fstate = s.fstate := rfl
@[simp] theorem acceptByte_bufLen : (s.acceptByte).bufLen = s.bufLen := rfl
@[simp] theorem acceptByte_buf : (s.acceptByte).buf = s.buf := rfl
@[simp] theorem acceptByte_noise : (s.acceptByte).noise = s.noise := rfl
@[simp] theorem acceptByte_pos : (s.acceptByte).pos = s.pos + 1 := rfl
@[simp] theorem acceptByte_frameStart : (s.acceptByte).frameStart = s.frameStart := rfl
@[simp] theorem acceptByte_out : (s.acceptByte).out = s.out := rfl
@[simp] theorem acceptByte_returned : (s.acceptByte).returned = s.returned := rfl
@[simp] theorem acceptByte_input : (s.acceptByte).input = s.input := rfl

@[simp] theorem setNoise_params (v : Bool) : (s.setNoise v).params = s.params := rfl
@[simp] theorem setNoise_crc (v : Bool) : (s.setNoise v).crc = s.crc := rfl
@[simp] theorem setNoise_fstate (v : Bool) : (s.setNoise v).fstate = s.fstate := rfl
@[simp] theorem setNoise_bufLen (v : Bool) : (s.setNoise v).bufLen = s.bufLen := rfl
@[simp] theorem setNoise_buf (v : Bool) : (s.setNoise v).buf = s.buf := rfl
@[simp] theorem setNoise_noise (v : Bool) : (s.setNoise v).noise = v := rfl
@[simp] theorem setNoise_pos (v : Bool) : (s.setNoise v).pos = s.pos := rfl
@[simp] theorem setNoise_frameStart (v : Bool) : (s.setNoise v).frameStart = s.frameStart := rfl
@[simp] theorem setNoise_out (v : Bool) : (s.setNoise v).out = s.out := rfl
@[simp] theorem setNoise_returned (v : Bool) : (s.setNoise v).returned = s.returned := rfl
@[simp] theorem setNoise_input (v : Bool) : (s.setNoise v).input = s.input := rfl

@[simp] theorem setFrameStart_params (off : Word32) : (s.setFrameStart off).params = s.params := rfl
@[simp] theorem setFrameStart_crc (off : Word32) : (s.setFrameStart off).crc = s.crc := rfl
@[simp] theorem setFrameStart_fstate (off : Word32) : (s.setFrameStart off).fstate = s.fstate := rfl
@[simp] theorem setFrameStart_bufLen (off : Word32) : (s.setFrameStart off).bufLen = s.bufLen := rfl
@[simp] theorem setFrameStart_buf (off : Word32) : (s.setFrameStart off).buf = s.buf := rfl
@[simp] theorem setFrameStart_noise (off : Word32) : (s.setFrameStart off).noise = s.noise := rfl
@[simp] theorem setFrameStart_pos (off : Word32) : (s.setFrameStart off).pos = s.pos := rfl
@[simp] theorem setFrameStart_frameStart (off : Word32) : (s.setFrameStart off).frameStart = off := rfl
@[simp] theorem setFrameStart_out (off : Word32) : (s.setFrameStart off).out = s.out := rfl
@[simp] theorem setFrameStart_returned (off : Word32) : (s.setFrameStart off).returned = s.returned := rfl
@[simp] theorem setFrameStart_input (off : Word32) : (s.setFrameStart off).input = s.input := rfl

@[simp] theorem setBufLen_params (n : Nat) : (s.setBufLen n).params = s.params := rfl
@[simp] theorem setBufLen_crc (n : Nat) : (s.setBufLen n).crc = s.crc := rfl
@[simp] theorem setBufLen_fstate (n : Nat) : (s.setBufLen n).fstate = s.fstate := rfl
@[simp] theorem setBufLen_bufLen (n : Nat) : (s.setBufLen n).bufLen = n := rfl
@[simp] theorem setBufLen_buf (n : Nat) : (s.setBufLen n).buf = s.buf := rfl
@[simp] theorem setBufLen_noise (n : Nat) : (s.setBufLen n).noise = s.noise := rfl
@[simp] theorem setBufLen_pos (n : Nat) : (s.setBufLen n).pos = s.pos := rfl
@[simp] theorem setBufLen_frameStart (n : Nat) : (s.setBufLen n).frameStart = s.frameStart := rfl
@[simp] theorem setBufLen_out (n : Nat) : (s.setBufLen n).out = s.out := rfl
@[simp] theorem setBufLen_returned (n : Nat) : (s.setBufLen n).returned = s.returned := rfl
@[simp] theorem setBufLen_input (n : Nat) : (s.setBufLen n).input = s.input := rfl

@[simp] theorem setFState_params (f : FState) : (s.setFState f).params = s.params := rfl
@[simp] theorem setFState_crc (f : FState) : (s.setFState f).crc = s.crc := rfl
@[simp] theorem setFState_fstate (f : FState) : (s.setFState f).fstate = f := rfl
@[simp] theorem setFState_bufLen (f : FState) : (s.setFState f).bufLen = s.bufLen := rfl
@[simp] theorem setFState_buf (f : FState) : (s.setFState f).buf = s.buf := rfl
@[simp] theorem setFState_noise (f : FState) : (s.setFState f).noise = s.noise := rfl
@[simp] theorem setFState_pos (f : FState) : (s.setFState f).pos = s.pos := rfl
@[simp] theorem setFState_frameStart (f : FState) : (s.setFState f).frameStart = s.frameStart := rfl
@[simp] theorem setFState_out (f : FState) : (s.setFState f).out = s.out := rfl
@[simp] theorem setFState_returned (f : FState) : (s.setFState f).returned = s.returned := rfl
@[simp] theorem setFState_input (f : FState) : (s.setFState f).input = s.input := rfl

@[simp] theorem emit_params (e : Event) : (s.emit e).params = s.params := rfl
@[simp] theorem emit_crc (e : Event) : (s.emit e).crc = s.crc := rfl
@[simp] theorem emit_fstate (e : Event) : (s.emit e).fstate = s.fstate := rfl
@[simp] theorem emit_bufLen (e : Event) : (s.emit e).bufLen = s.bufLen := rfl
@[simp] theorem emit_buf (e : Event) : (s.emit e).buf = s.buf := rfl
@[simp] theorem emit_noise (e : Event) : (s.emit e).noise = s.noise := rfl
@[simp] theorem emit_pos (e : Event) : (s.emit e).pos = s.pos := rfl
@[simp] theorem emit_frameStart (e : Event) : (s.emit e).frameStart = s.frameStart := rfl
@[simp] theorem emit_out (e : Event) : (s.emit e).out = s.out ++ [e] := rfl
@[simp] theorem emit_returned (e : Event) : (s.emit e).returned = s.returned := rfl
@[simp] theorem emit_input (e : Event) : (s.emit e).input = s.input := rfl

@[simp] theorem raiseError_params (k : ErrorKind) (off : Word32) : (s.raiseError k off).params = s.params := rfl
@[simp] theorem raiseError_crc (k : ErrorKind) (off : Word32) : (s.raiseError k off).crc = s.crc := rfl
@[simp] theorem raiseError_fstate (k : ErrorKind) (off : Word32) : (s.raiseError k off).fstate = s.fstate := rfl
@[simp] theorem raiseError_bufLen (k : ErrorKind) (off : Word32) : (s.raiseError k off).bufLen = s.bufLen := rfl
@[simp] theorem raiseError_buf (k : ErrorKind) (off : Word32) : (s.raiseError k off).buf = s.buf := rfl
@[simp] theorem raiseError_noise (k : ErrorKind) (off : Word32) : (s.raiseError k off).noise = s.noise := rfl
@[simp] theorem raiseError_pos (k : ErrorKind) (off : Word32) : (s.raiseError k off).pos = s.pos := rfl
@[simp] theorem raiseError_frameStart (k : ErrorKind) (off : Word32) : (s.raiseError k off).frameStart = s.frameStart := rfl
@[simp] theorem raiseError_out (k : ErrorKind) (off : Word32) : (s.raiseError k off).out = s.out ++ [.error k off] := rfl
@[simp] theorem raiseError_returned (k : ErrorKind) (off : Word32) : (s.raiseError k off).returned = s.returned := rfl
@[simp] theorem raiseError_input (k : ErrorKind) (off : Word32) : (s.raiseError k off).input = s.input := rfl

@[simp] theorem resync_params : (s.resync).params = s.params := rfl
@[simp] theorem resync_crc : (s.resync).crc = s.crc := rfl
@[simp] theorem resync_fstate : (s.resync).fstate = .inFrame := rfl
@[simp] theorem resync_bufLen : (s.resync).bufLen = 0 := rfl
@[simp] theorem resync_buf : (s.resync).buf = s.buf := rfl
@[simp] theorem resync_noise : (s.resync).noise = s.noise := rfl
@[simp] theorem resync_pos : (s.resync).pos = s.pos := rfl
@[simp] theorem resync_frameStart : (s.resync).frameStart = s.pos - 1 := rfl
@[simp] theorem resync_out : (s.resync).out = s.out := rfl
@[simp] theorem resync_returned : (s.resync).returned = s.returned := rfl
@[simp] theorem resync_input : (s.resync).input = s.input := rfl

@[simp] theorem dropOverlong_params : (s.dropOverlong).params = s.params := rfl
@[simp] theorem dropOverlong_crc : (s.dropOverlong).crc = s.crc := rfl
@[simp] theorem dropOverlong_fstate : (s.dropOverlong).fstate = .seeking := rfl
@[simp] theorem dropOverlong_bufLen : (s.dropOverlong).bufLen = 0 := rfl
@[simp] theorem dropOverlong_buf : (s.dropOverlong).buf = s.buf := rfl
@[simp] theorem dropOverlong_noise : (s.dropOverlong).noise = true := rfl
@[simp] theorem dropOverlong_pos : (s.dropOverlong).pos = s.pos := rfl
@[simp] theorem dropOverlong_frameStart : (s.dropOverlong).frameStart = s.frameStart := rfl
@[simp] theorem dropOverlong_out : (s.dropOverlong).out = s.out := rfl
@[simp] theorem dropOverlong_returned : (s.dropOverlong).returned = s.returned := rfl
@[simp] theorem dropOverlong_input : (s.dropOverlong).input = s.input := rfl

@[simp] theorem framerReset_params : (s.framerReset).params = s.params := rfl
@[simp] theorem framerReset_crc : (s.framerReset).crc = s.crc := rfl
@[simp] theorem framerReset_fstate : (s.framerReset).fstate = .seeking := rfl
@[simp] theorem framerReset_bufLen : (s.framerReset).bufLen = 0 := rfl
@[simp] theorem framerReset_buf : (s.framerReset).buf = [] := rfl
@[simp] theorem framerReset_noise : (s.framerReset).noise = false := rfl
@[simp] theorem framerReset_pos : (s.framerReset).pos = 0 := rfl
@[simp] theorem framerReset_frameStart : (s.framerReset).frameStart = 0 := rfl
@[simp] theorem framerReset_out : (s.framerReset).out = s.out := rfl
@[simp] theorem framerReset_returned : (s.framerReset).returned = s.returned := rfl
@[simp] theorem framerReset_input : (s.framerReset).input = s.input := rfl

@[simp] theorem setInput_params (l : List Issue) : (s.setInput l).params = s.params := rfl
@[simp] theorem setInput_crc (l : List Issue) : (s.setInput l).crc = s.crc := rfl
@[simp] theorem setInput_fstate (l : List Issue) : (s.setInput l).fstate = s.fstate := rfl
@[simp] theorem setInput_bufLen (l : List Issue) : (s.setInput l).bufLen = s.bufLen := rfl
@[simp] theorem setInput_buf (l : List Issue) : (s.setInput l).buf = s.buf := rfl
@[simp] theorem setInput_noise (l : List Issue) : (s.setInput l).noise = s.noise := rfl
@[simp] theorem setInput_pos (l : List Issue) : (s.setInput l).pos = s.pos := rfl
@[simp] theorem setInput_frameStart (l : List Issue) : (s.setInput l).frameStart = s.frameStart := rfl
@[simp] theorem setInput_out (l : List Issue) : (s.setInput l).out = s.out := rfl
@[simp] theorem setInput_returned (l : List Issue) : (s.setInput l).returned = s.returned := rfl
@[simp] theorem setInput_input (l : List Issue) : (s.setInput l).input = l := rfl

@[simp] theorem eraseOffsets_params : (s.eraseOffsets).params = s.params := rfl
@[simp] theorem eraseOffsets_crc : (s.eraseOffsets).crc = s.crc := rfl
@[simp] theorem eraseOffsets_fstate : (s.eraseOffsets).fstate = s.fstate := rfl
@[simp] theorem eraseOffsets_bufLen : (s.eraseOffsets).bufLen = s.bufLen := rfl
@[simp] theorem eraseOffsets_buf : (s.eraseOffsets).buf = s.buf := rfl
@[simp] theorem eraseOffsets_noise : (s.eraseOffsets).noise = s.noise := rfl
@[simp] theorem eraseOffsets_pos : (s.eraseOffsets).pos = 0 := rfl
@[simp] theorem eraseOffsets_frameStart : (s.eraseOffsets).frameStart = 0 := rfl
@[simp] theorem eraseOffsets_out : (s.eraseOffsets).out = s.out.map Event.eraseOffset := rfl
@[simp] theorem eraseOffsets_returned : (s.eraseOffsets).returned = s.returned := rfl
@[simp] theorem eraseOffsets_input : (s.eraseOffsets).input = s.input := rfl

/-- The decode context is read off three fields. -/
@[simp] theorem rxContext_fstate : s.rxContext.fstate = s.fstate := rfl
@[simp] theorem rxContext_bufLen : s.rxContext.bufLen = s.bufLen := rfl
@[simp] theorem rxContext_maxFrameLen : s.rxContext.maxFrameLen = s.params.maxFrameLen := rfl

/-- A state is its fields: how a result built by updates is compared with one written field by field. -/
theorem State.eq_of_fields {s t : State} (h1 : s.params = t.params) (h2 : s.crc = t.crc)
    (h3 : s.fstate = t.fstate) (h4 : s.bufLen = t.bufLen) (h5 : s.buf = t.buf) (h6 : s.noise = t.noise)
    (h7 : s.pos = t.pos) (h8 : s.frameStart = t.frameStart) (h9 : s.out = t.out)
    (h10 : s.returned = t.returned) (h11 : s.input = t.input) : s = t := by
  cases s; cases t; simp_all

end Sys2Proof.Machine
end

