-- ==== Sys2Proof/Laws/Memory.lean ====
section
/-! SUPPORT. The laws of the frame buffer: read after write, and the canonical form. -/

namespace Sys2Proof.Machine

/-- What a read gives after a write: the byte written there, elsewhere what it gave before. -/
theorem read_write (m : Memory) (i j : Nat) (v : Byte) :
    (m.write i v).read j = if j = i then some v else m.read j := by
  induction m with
  | nil => simp [Memory.write, Memory.read, eq_comm]
  | cons c m ih =>
    simp only [Memory.write]
    split_ifs with h1 h2 <;> simp only [Memory.read, ih] <;> split_ifs <;> first | rfl | omega

@[simp] theorem read_write_same (m : Memory) (i : Nat) (v : Byte) :
    (m.write i v).read i = some v := by simp [read_write]

theorem read_write_other {m : Memory} {i j : Nat} (v : Byte) (h : j ≠ i) :
    (m.write i v).read j = m.read j := by simp [read_write, h]

/-- A write adds no index but its own. -/
theorem mem_write {m : Memory} {i : Nat} {v : Byte} {c : Host.Cell} (h : c ∈ m.write i v) :
    c = (i, v) ∨ c ∈ m := by
  induction m with
  | nil => simpa [Memory.write] using h
  | cons d m ih =>
    simp only [Memory.write] at h
    split_ifs at h <;> simp only [List.mem_cons] at h ⊢ <;> tauto

/-- A write keeps the canonical form. -/
theorem write_wf {m : Memory} (i : Nat) (v : Byte) (h : m.wf) : (m.write i v).wf := by
  induction m with
  | nil => simp [Memory.write, Memory.wf]
  | cons c m ih =>
    obtain ⟨hc, hm⟩ := List.pairwise_cons.1 h
    simp only [Memory.write]
    split_ifs with h1 h2
    · exact List.pairwise_cons.2 ⟨fun d hd => by
        rcases List.mem_cons.1 hd with rfl | hd
        · exact h1
        · exact lt_trans h1 (hc d hd), h⟩
    · subst h2
      exact List.pairwise_cons.2 ⟨hc, hm⟩
    · refine List.pairwise_cons.2 ⟨fun d hd => ?_, ih hm⟩
      rcases mem_write hd with rfl | hd
      · simp only; omega
      · exact hc d hd

/-- What `MemWrite` does: it writes inside the buffer's index range and faults outside it (R12). -/
theorem memWrite_spec (s : State) (i : Nat) (v : Byte) :
    s.memWrite i v = if i < s.params.maxFrameLen then .ok { s with buf := s.buf.write i v }
      else .error (.bufWriteIllegal i) := rfl

/-- What `MemRead` does in a state that holds a candidate: it gives the candidate's byte (R27). -/
theorem memRead_of_holds {s : State} {bs : List Byte} (h : s.Holds bs) {i : Nat} (hi : i < bs.length) :
    s.memRead i = .ok bs[i] := by
  obtain ⟨hl, hr⟩ := h
  simp [State.memRead, hl, hi, hr i hi]

/-- What reading a byte string does in a state that holds a candidate: it gives the slice. -/
theorem memReadBytes_of_holds {s : State} {bs : List Byte} (h : s.Holds bs) (k : Nat) :
    ∀ i, i + k ≤ bs.length → s.memReadBytes i k = .ok ((bs.drop i).take k) := by
  induction k with
  | zero => intro i _; simp [State.memReadBytes]
  | succ k ih =>
    intro i hi
    have hlt : i < bs.length := by omega
    rw [State.memReadBytes, memRead_of_holds h hlt, ih (i + 1) (by omega),
      List.drop_eq_getElem_cons hlt, List.take_succ_cons]

/-- What reading a 16-bit field does in a state that holds a candidate. -/
theorem readBe16_of_holds {s : State} {bs : List Byte} (h : s.Holds bs) {i : Nat}
    (hi : i + 1 < bs.length) : s.readBe16 i = .ok (be16At bs i) := by
  have h0 : i < bs.length := by omega
  simp [State.readBe16, memRead_of_holds h h0, memRead_of_holds h hi, be16At, h0, hi]

/-- A buffer read depends on `BUFLEN` and `BUF` alone. -/
theorem memReadBytes_congr {s u : State} (hl : s.bufLen = u.bufLen) (hb : s.buf = u.buf) (k : Nat) :
    ∀ i, s.memReadBytes i k = u.memReadBytes i k := by
  induction k with
  | zero => intro i; rfl
  | succ k ih => intro i; simp only [State.memReadBytes, State.memRead, hl, hb, ih]

/-- The verdict depends on the candidate and the parameters alone (R79). -/
theorem verdict_congr {s u : State} (hl : s.bufLen = u.bufLen) (hb : s.buf = u.buf)
    (hp : s.params = u.params) : s.verdict = u.verdict := by
  simp only [State.verdict, State.headerCheck, State.frameCheck, State.acceptedFields, State.readHcs,
    State.readHeader, State.readFcs, State.readCovered, State.readAddr, State.readCtrl, State.readInfo,
    memReadBytes_congr hl hb, State.readBe16, State.memRead, hl, hb, hp]

/-- A state whose buffer is written below `BUFLEN` holds some candidate. -/
theorem holds_of_written {s : State} (h : ∀ i < s.bufLen, ∃ b, s.buf.read i = some b) :
    ∃ bs, s.Holds bs := by
  refine ⟨(List.range s.bufLen).map fun i => (s.buf.read i).getD 0, by simp, fun i hi => ?_⟩
  rw [List.length_map, List.length_range] at hi
  obtain ⟨b, hb⟩ := h i hi
  simp [hi, hb]

end Sys2Proof.Machine
end

