-- ==== Sys2Proof/Laws/Ops.lean ====
section
/-! SUPPORT. For each shared operation, what it can do, said once. -/

namespace Sys2Proof.Machine

/-- If a case of `FRM.RX` answers a next state, it was selected and ran on the state with the byte
accepted (R67). -/
theorem rxCase_next {i : Instr} {s t : State} {run : State → Word32 → Result}
    (h : rxCase i s run = .next t) :
    s.fstate ≠ .validating ∧ i.selectedIn s.rxContext = true ∧ run s.acceptByte s.pos = .next t := by
  simp only [rxCase] at h
  split_ifs at h with h1 h2
  exact ⟨h1, h2, h⟩

/-- If a case of `FRM.RX` faults, it was selected and its own effect faults. -/
theorem rxCase_fault {i : Instr} {s : State} {f : Fault} {run : State → Word32 → Result}
    (h : rxCase i s run = .fault f) :
    s.fstate ≠ .validating ∧ i.selectedIn s.rxContext = true ∧ run s.acceptByte s.pos = .fault f := by
  simp only [rxCase] at h
  split_ifs at h with h1 h2
  exact ⟨h1, h2, h⟩

/-- A selected case runs. -/
theorem rxCase_run {i : Instr} {s : State} (run : State → Word32 → Result)
    (h1 : s.fstate ≠ .validating) (h2 : i.selectedIn s.rxContext = true) :
    rxCase i s run = run s.acceptByte s.pos := by simp [rxCase, h1, h2]

/-- All `noteNoise` can do (R69). -/
theorem noteNoise_cases (s : State) (off : Word32) :
    (s.noise = true ∧ s.noteNoise off = s) ∨
    (s.noise = false ∧ s.params.reportDesync = true ∧
      s.noteNoise off = (s.setNoise true).raiseError .desync off) ∨
    (s.noise = false ∧ s.params.reportDesync = false ∧ s.noteNoise off = s.setNoise true) := by
  cases h1 : s.noise <;> cases h2 : s.params.reportDesync <;> simp [State.noteNoise, h1, h2]

/-- The verdict on a candidate by its content alone: the checks of R86 on a byte string. -/
def contentVerdict (p : Params) (bs : List Byte) : Verdict :=
  if bs.length < p.minFrameLen then .rejected .truncated
  else if be16At bs p.hdrLen ≠ crc16 (bs.take p.hdrLen) then .rejected .headerCrcMismatch
  else if be16At bs (bs.length - 2) ≠ crc16 (bs.take (bs.length - 2)) then .rejected .frameCrcMismatch
  else .accepted (addrOf p bs) (ctrlOf p bs) (infoOf p bs)

/-- What the three checks answer in a state that holds a candidate: no fault, and the verdict on its
content (R86). -/
theorem verdict_of_holds {s : State} {bs : List Byte} (h : s.Holds bs) :
    s.verdict = .ok (contentVerdict s.params bs) := by
  have hl := h.1
  by_cases hmin : bs.length < s.params.minFrameLen
  · simp [State.verdict, contentVerdict, hl, hmin]
  have hn : s.params.addrLen + s.params.ctrlLen + 4 ≤ bs.length := by
    simpa [Params.minFrameLen, Params.hdrLen] using hmin
  have hh : s.params.hdrLen = s.params.addrLen + s.params.ctrlLen := rfl
  have e1 : s.readHcs = .ok (be16At bs s.params.hdrLen) := readBe16_of_holds h (by omega)
  have e2 : s.readHeader = .ok (bs.take s.params.hdrLen) := by
    simpa [State.readHeader] using memReadBytes_of_holds h s.params.hdrLen 0 (by omega)
  have e3 : s.readFcs = .ok (be16At bs (bs.length - 2)) := by
    rw [State.readFcs, hl]; exact readBe16_of_holds h (by omega)
  have e4 : s.readCovered = .ok (bs.take (bs.length - 2)) := by
    simpa [State.readCovered, hl] using memReadBytes_of_holds h (bs.length - 2) 0 (by omega)
  have e5 : s.readAddr = .ok (addrOf s.params bs) := by
    simpa [State.readAddr, addrOf] using memReadBytes_of_holds h s.params.addrLen 0 (by omega)
  have e6 : s.readCtrl = .ok (ctrlOf s.params bs) := memReadBytes_of_holds h _ _ (by omega)
  have e7 : s.readInfo = .ok (infoOf s.params bs) := by
    rw [State.readInfo, hl]; exact memReadBytes_of_holds h _ _ (by omega)
  simp only [State.verdict, contentVerdict, hl, hmin, if_false, State.headerCheck, e1, e2,
    State.frameCheck, e3, e4, State.acceptedFields, e5, e6, e7]
  split_ifs <;> rfl

/-- What a turn is when nothing is offered. -/
theorem turn_nil {s : State} (hp : s.params.Legal) (h : s.input = []) : s.turn = s.turnAlone := by
  simp [State.turn, hp, h]

/-- What a turn is when an operation is offered. -/
theorem turn_cons {s : State} (hp : s.params.Legal) {q : Issue} {rest : List Issue}
    (h : s.input = q :: rest) : s.turn = s.turnOf q rest := by
  simp [State.turn, hp, h]

/-- All the turn of an offered operation can be: run, held while the sequencer validates, refused. -/
theorem turnOf_cases (s : State) (q : Issue) (rest : List Issue) :
    (∃ cmd i, decodeCmd q.word = .ok cmd ∧ q.agent.owns cmd = true ∧ resolve s.rxContext cmd = .ok i ∧
      s.turnOf q rest = .issued i rest) ∨
    (s.fstate = .validating ∧ s.turnOf q rest = .sequencer) ∨
    (∃ r, s.turnOf q rest = .rejected r) := by
  simp only [State.turnOf]
  split
  · exact .inr (.inr ⟨_, rfl⟩)
  · rename_i cmd hc
    by_cases ho : q.agent.owns cmd = true
    · rw [if_pos ho]
      split
      · rename_i i hi
        exact .inl ⟨cmd, i, hc, ho, hi, rfl⟩
      · rename_i hr
        refine .inr (.inl ⟨?_, rfl⟩)
        cases cmd with
        | frmRx b =>
          cases hf : s.fstate with
          | validating => rfl
          | seeking => simp only [resolve, selectRx, rxContext_fstate, hf] at hr; split_ifs at hr
          | inFrame => simp only [resolve, selectRx, rxContext_fstate, hf] at hr; split_ifs at hr; cases hr
        | _ => cases hr
      · exact .inr (.inr ⟨_, rfl⟩)
    · rw [if_neg ho]
      exact .inr (.inr ⟨_, rfl⟩)

/-- All the turn of the block can be. -/
theorem turn_cases (s : State) :
    (s.params.Legal ∧ s.input = [] ∧ s.fstate ≠ .validating ∧ s.turn = .idle) ∨
    (s.params.Legal ∧ s.fstate = .validating ∧ s.turn = .sequencer) ∨
    (s.params.Legal ∧ ∃ q rest i, s.input = q :: rest ∧ decode s.rxContext q.word = .ok i ∧
      s.turn = .issued i rest) ∨
    (∃ r, s.turn = .rejected r) := by
  by_cases hp : s.params.Legal
  · cases hq : s.input with
    | nil =>
      rw [turn_nil hp hq]
      by_cases hf : s.fstate = .validating
      · exact .inr (.inl ⟨hp, hf, if_pos hf⟩)
      · exact .inl ⟨hp, rfl, hf, if_neg hf⟩
    | cons q rest =>
      rw [turn_cons hp hq]
      rcases turnOf_cases s q rest with ⟨cmd, i, hc, -, hi, ht⟩ | ⟨hf, ht⟩ | ht
      · exact .inr (.inr (.inl ⟨hp, q, rest, i, rfl, by rw [decode_of_cmd hc, hi], ht⟩))
      · exact .inr (.inl ⟨hp, hf, ht⟩)
      · exact .inr (.inr (.inr ht))
  · exact .inr (.inr (.inr ⟨_, by simp only [State.turn, if_neg hp]; rfl⟩))

/-- All a step can be: idle, the sequencer's validation, the first offered operation, a refusal. -/
theorem step_cases (s : State) :
    (s.params.Legal ∧ s.input = [] ∧ s.fstate ≠ .validating ∧ step s = .next s) ∨
    (s.params.Legal ∧ s.fstate = .validating ∧ step s = exec .frmValidate s) ∨
    (s.params.Legal ∧ ∃ q rest i, s.input = q :: rest ∧ decode s.rxContext q.word = .ok i ∧
      step s = exec i (s.setInput rest)) ∨
    (∃ r, step s = .refused r) := by
  rcases turn_cases s with ⟨hp, hi, hf, ht⟩ | ⟨hp, hf, ht⟩ | ⟨hp, q, rest, i, hq, hd, ht⟩ | ⟨r, ht⟩
  · exact .inl ⟨hp, hi, hf, by rw [step, ht]⟩
  · exact .inr (.inl ⟨hp, hf, by rw [step, ht]⟩)
  · exact .inr (.inr (.inl ⟨hp, q, rest, i, hq, hd, by rw [step, ht]⟩))
  · exact .inr (.inr (.inr ⟨r, by rw [step, ht]⟩))

/-- The model's `run` is the host's run of its core. -/
theorem core_run_eq_run (k : Nat) : ∀ s : State, Sys2Proof.core.run k s = run k s := by
  induction k with
  | zero => exact fun _ => rfl
  | succ k ih =>
    intro s
    simp only [Host.Core.run, run, Sys2Proof.core]
    cases step s with
    | next t => exact ih t
    | fault f => rfl
    | refused r => rfl

/-- A run's first step. -/
theorem run_succ {s t : State} (k : Nat) (h : step s = .next t) : run (k + 1) s = run k t := by
  simp [run, h]

/-- A run continues from where its first part ends. -/
theorem run_add {a : Nat} (b : Nat) {s t : State} (h : run a s = .next t) :
    run (a + b) s = run b t := by
  induction a generalizing s with
  | zero => injection h with h; subst h; simp
  | succ a ih =>
    simp only [run] at h
    split at h
    · rename_i u hu
      rw [Nat.add_right_comm, run_succ _ hu]
      exact ih h
    · cases h
    · cases h

end Sys2Proof.Machine
end

