-- ==== Sys2Proof/Laws/Exec.lean ====
section
/-! SUPPORT. What each meaning can do when it answers a next state: the condition it ran under, and that
state written field by field. Invariants and frames follow from these without unfolding a meaning. -/

namespace Sys2Proof.Machine

variable {s t : State}

/-- Two next states that are equal as results are equal as states. -/
theorem next_inj {a b : State} (h : (.next a : Result) = .next b) : b = a := by
  injection h with h; exact h.symm

/-- Noise in one equation: the flag is set, and the first byte of a run may be reported (R69). -/
theorem noteNoise_eq (s : State) (off : Word32) :
    s.noteNoise off = { s with
      noise := true
      out := if s.noise = false ∧ s.params.reportDesync = true then s.out ++ [.error .desync off]
        else s.out } := by
  rcases noteNoise_cases s off with ⟨h1, h2⟩ | ⟨h1, h3, h2⟩ | ⟨h1, h3, h2⟩
  · rw [h2]; cases s; simp_all
  · rw [h2]; simp [h1, h3]; rfl
  · rw [h2]; simp [h1, h3]; rfl

theorem execCrcInit_next (h : exec .crcInit s = .next t) : t = { s with crc := crcInitValue } :=
  next_inj h

theorem execCrcUpdate_next {b : Byte} (h : exec (.crcUpdate b) s = .next t) :
    t = { s with crc := byteUpdate s.crc b } := next_inj h

theorem execCrcFinal_next (h : exec .crcFinal s = .next t) :
    t = { s with returned := s.returned ++ [crcFinish s.crc] } := next_inj h

theorem execFrmReset_next (h : exec .frmReset s = .next t) :
    t = { s with fstate := .seeking, bufLen := 0, buf := [], noise := false, pos := 0,
                 frameStart := 0 } := next_inj h

theorem execRxSeekFlag_next (h : exec .rxSeekFlag s = .next t) :
    s.fstate = .seeking ∧ t = { s with
      pos := s.pos + 1, fstate := .inFrame, bufLen := 0, noise := false, frameStart := s.pos } := by
  simp only [exec, execRxSeekFlag] at h
  obtain ⟨-, h2, h3⟩ := rxCase_next h
  exact ⟨by simpa [Instr.selectedIn] using h2, next_inj h3⟩

theorem execRxInFlagEmpty_next (h : exec .rxInFlagEmpty s = .next t) :
    s.fstate = .inFrame ∧ s.bufLen = 0 ∧ t = { s with pos := s.pos + 1, frameStart := s.pos } := by
  simp only [exec, execRxInFlagEmpty] at h
  obtain ⟨-, h2, h3⟩ := rxCase_next h
  simp only [Instr.selectedIn, rxContext_fstate, rxContext_bufLen, Bool.and_eq_true, beq_iff_eq] at h2
  exact ⟨h2.1, h2.2, next_inj h3⟩

theorem execRxInFlagClose_next (h : exec .rxInFlagClose s = .next t) :
    s.fstate = .inFrame ∧ 1 ≤ s.bufLen ∧
      t = { s with pos := s.pos + 1, fstate := .validating } := by
  simp only [exec, execRxInFlagClose] at h
  obtain ⟨-, h2, h3⟩ := rxCase_next h
  simp only [Instr.selectedIn, rxContext_fstate, rxContext_bufLen, Bool.and_eq_true,
    beq_iff_eq] at h2
  exact ⟨h2.1, of_decide_eq_true h2.2, next_inj h3⟩

theorem execRxSeekNoise_next {b : Byte} (h : exec (.rxSeekNoise b) s = .next t) :
    s.fstate = .seeking ∧ b ≠ flagByte ∧ t = { s with
      pos := s.pos + 1, noise := true
      out := if s.noise = false ∧ s.params.reportDesync = true then s.out ++ [.error .desync s.pos]
        else s.out } := by
  simp only [exec, execRxSeekNoise] at h
  obtain ⟨-, h2, h3⟩ := rxCase_next h
  simp only [Instr.selectedIn, rxContext_fstate, Bool.and_eq_true, beq_iff_eq, bne_iff_ne] at h2
  exact ⟨h2.1, h2.2, (next_inj h3).trans (noteNoise_eq _ _)⟩

theorem execRxInData_next {b : Byte} (h : exec (.rxInData b) s = .next t) :
    s.fstate = .inFrame ∧ b ≠ flagByte ∧ s.bufLen < s.params.maxFrameLen ∧ t = { s with
      pos := s.pos + 1, bufLen := s.bufLen + 1, buf := s.buf.write s.bufLen b } := by
  simp only [exec, execRxInData] at h
  obtain ⟨-, h2, h3⟩ := rxCase_next h
  simp only [Instr.selectedIn, rxContext_fstate, rxContext_bufLen, rxContext_maxFrameLen,
    Bool.and_eq_true, beq_iff_eq, bne_iff_ne] at h2
  obtain ⟨⟨hf, hb⟩, hd⟩ := h2
  have hl : s.bufLen < s.params.maxFrameLen := of_decide_eq_true hd
  simp only [memWrite_spec, acceptByte_bufLen, acceptByte_params, hl, if_true] at h3
  exact ⟨hf, hb, hl, next_inj h3⟩

theorem execRxInOverflow_next {b : Byte} (h : exec (.rxInOverflow b) s = .next t) :
    s.fstate = .inFrame ∧ b ≠ flagByte ∧ s.bufLen = s.params.maxFrameLen ∧ t = { s with
      pos := s.pos + 1, bufLen := 0, fstate := .seeking, noise := true
      out := s.out ++ [.error .desync s.frameStart] } := by
  simp only [exec, execRxInOverflow] at h
  obtain ⟨-, h2, h3⟩ := rxCase_next h
  simp only [Instr.selectedIn, rxContext_fstate, rxContext_bufLen, rxContext_maxFrameLen,
    Bool.and_eq_true, beq_iff_eq, bne_iff_ne] at h2
  exact ⟨h2.1.1, h2.1.2, h2.2, next_inj h3⟩

/-- All `FRM.VALIDATE` can do when it answers a next state (R86): one event, then the epilogue. -/
theorem execFrmValidate_next (h : exec .frmValidate s = .next t) :
    s.fstate = .validating ∧ ∃ v, s.verdict = .ok v ∧ t = (s.report v).resync := by
  simp only [exec, execFrmValidate] at h
  split_ifs at h with hf
  split at h
  · rename_i v hv
    exact ⟨hf, v, hv, next_inj h⟩
  · cases h

/-- Reporting a verdict appends one event and changes nothing else (R84, R98). -/
theorem report_eq (s : State) (v : Verdict) :
    s.report v = s.emit (match v with
      | .accepted a c i => .payload a c i
      | .rejected k => .error k s.frameStart) := by cases v <;> rfl

/-- What the decode of the next `FRM.RX` will read, after any instruction that completes. -/
theorem exec_rxContext {i : Instr} (h : exec i s = .next t) :
    t.rxContext = contextAfter s.rxContext i := by
  cases i with
  | crcInit => rw [execCrcInit_next h]; rfl
  | crcUpdate b => rw [execCrcUpdate_next h]; rfl
  | crcFinal => rw [execCrcFinal_next h]; rfl
  | rxSeekFlag => rw [(execRxSeekFlag_next h).2]; rfl
  | rxInFlagEmpty => rw [(execRxInFlagEmpty_next h).2.2]; rfl
  | rxInFlagClose => rw [(execRxInFlagClose_next h).2.2]; rfl
  | rxSeekNoise b => rw [(execRxSeekNoise_next h).2.2]; rfl
  | rxInData b => rw [(execRxInData_next h).2.2.2]; rfl
  | rxInOverflow b => rw [(execRxInOverflow_next h).2.2.2]; rfl
  | frmValidate => obtain ⟨-, v, -, rfl⟩ := execFrmValidate_next h; rw [report_eq]; rfl
  | frmReset => rw [execFrmReset_next h]; rfl

/-- Only the buffer reads of `FRM.VALIDATE` can fault: a selected data byte is within the buffer (R27). -/
theorem exec_fault {i : Instr} {f : Fault} (h : exec i s = .fault f) :
    i = .frmValidate ∧ s.fstate = .validating ∧ s.verdict = .error f := by
  cases i with
  | frmValidate =>
    simp only [exec, execFrmValidate] at h
    split_ifs at h with hf
    split at h
    · cases h
    · rename_i g hv
      injection h with h
      exact ⟨rfl, hf, h ▸ hv⟩
  | rxInData b =>
    simp only [exec, execRxInData] at h
    obtain ⟨-, h2, h3⟩ := rxCase_fault h
    simp only [Instr.selectedIn, rxContext_fstate, rxContext_bufLen, rxContext_maxFrameLen,
      Bool.and_eq_true, beq_iff_eq, bne_iff_ne] at h2
    have hl : s.bufLen < s.params.maxFrameLen := of_decide_eq_true h2.2
    simp [memWrite_spec, hl] at h3
  | rxSeekFlag => simp only [exec, execRxSeekFlag] at h; cases (rxCase_fault h).2.2
  | rxInFlagEmpty => simp only [exec, execRxInFlagEmpty] at h; cases (rxCase_fault h).2.2
  | rxInFlagClose => simp only [exec, execRxInFlagClose] at h; cases (rxCase_fault h).2.2
  | rxSeekNoise b => simp only [exec, execRxSeekNoise] at h; cases (rxCase_fault h).2.2
  | rxInOverflow b => simp only [exec, execRxInOverflow] at h; cases (rxCase_fault h).2.2
  | crcInit => cases h
  | crcUpdate b => cases h
  | crcFinal => cases h
  | frmReset => cases h

end Sys2Proof.Machine
end

