-- ==== Sys2Proof/Laws/PerInstr.lean ====
section
/-! SUPPORT. A statement for every instruction, one lemma per constructor: its encoding lies in its row of
spec/opcode_table.json. -/

namespace Sys2Proof

/-- The `match` and `mask` columns of the opcode table, by constructor. -/
def tableRow : Instr → Word16 × Word16
  | .crcInit => (0x0000, 0xFF00)
  | .crcUpdate _ => (0x0100, 0xFF00)
  | .crcFinal => (0x0200, 0xFF00)
  | .rxSeekFlag => (0x107E, 0xFFFF)
  | .rxInFlagEmpty => (0x107E, 0xFFFF)
  | .rxInFlagClose => (0x107E, 0xFFFF)
  | .rxSeekNoise _ => (0x1000, 0xFF00)
  | .rxInData _ => (0x1000, 0xFF00)
  | .rxInOverflow _ => (0x1000, 0xFF00)
  | .frmValidate => (0x1100, 0xFF00)
  | .frmReset => (0x1F00, 0xFF00)

/-- Masking a command word to its operation code. -/
theorem cmdWord_and_opMask (op b : Byte) : cmdWord op b &&& 0xFF00 = cmdWord op 0 := by
  apply BitVec.eq_of_getLsbD_eq
  intro i hi
  have h : ∀ i < 16, (0xFF00 : Word16).getLsbD i = decide (8 ≤ i) := by decide
  rw [BitVec.getLsbD_and, h i hi]
  by_cases h8 : i < 8
  · simp [cmdWord, h8]
  · simp [cmdWord, h8, show 8 ≤ i by omega]

namespace Laws.EncodingInTableRow

/-- The encoding of an instruction matches its row of the opcode table. -/
def Statement (i : Instr) : Prop := encode i &&& (tableRow i).2 = (tableRow i).1

theorem crcInit : Statement .crcInit := by unfold Statement; decide
theorem crcUpdate (b : Byte) : Statement (.crcUpdate b) := (cmdWord_and_opMask 0x01 b).trans (by rfl)
theorem crcFinal : Statement .crcFinal := by unfold Statement; decide
theorem rxSeekFlag : Statement .rxSeekFlag := by unfold Statement; decide
theorem rxInFlagEmpty : Statement .rxInFlagEmpty := by unfold Statement; decide
theorem rxInFlagClose : Statement .rxInFlagClose := by unfold Statement; decide
theorem rxSeekNoise (b : Byte) : Statement (.rxSeekNoise b) := (cmdWord_and_opMask 0x10 b).trans (by rfl)
theorem rxInData (b : Byte) : Statement (.rxInData b) := (cmdWord_and_opMask 0x10 b).trans (by rfl)
theorem rxInOverflow (b : Byte) : Statement (.rxInOverflow b) := (cmdWord_and_opMask 0x10 b).trans (by rfl)
theorem frmValidate : Statement .frmValidate := by unfold Statement; decide
theorem frmReset : Statement .frmReset := by unfold Statement; decide

end Laws.EncodingInTableRow

end Sys2Proof
end

