-- ==== Sys2Proof/Laws/Stimulus.lean ====
section
/-! SUPPORT. The expansion of `RXS` (30_encoding.md R51): the context it follows is the framer's. -/

namespace Sys2Proof.Machine

@[simp] theorem rxsIssues_nil (c : RxContext) : rxsIssues c [] = [] := rfl

@[simp] theorem rxIssues_cons (b : Byte) (bs : List Byte) :
    rxIssues (b :: bs) = rxIssue b :: rxIssues bs := rfl

@[simp] theorem contextOpened_fstate (c : RxContext) : (contextOpened c).fstate = .inFrame := rfl

theorem contextAccepting_of_open {c : RxContext} (h : c.fstate ≠ .validating) :
    contextAccepting c = c := if_neg h

theorem contextAccepting_of_closed {c : RxContext} (h : c.fstate = .validating) :
    contextAccepting c = contextOpened c := if_pos h

/-- In the context in which a byte is accepted no candidate is closed. -/
theorem contextAccepting_fstate (c : RxContext) : (contextAccepting c).fstate ≠ .validating := by
  by_cases h : c.fstate = .validating
  · simp [contextAccepting_of_closed h]
  · rwa [contextAccepting_of_open h]

/-- A closed candidate makes no difference to the expansion: it is validated before the next byte. -/
theorem rxsIssues_contextAccepting (c : RxContext) (bs : List Byte) :
    rxsIssues (contextAccepting c) bs = rxsIssues c bs := by
  cases bs with
  | nil => rfl
  | cons b bs =>
    have h : contextAfterRx (contextAccepting c) b = contextAfterRx c b := by
      simp only [contextAfterRx, contextAccepting_of_open (contextAccepting_fstate c)]
    simp only [rxsIssues, h]

/-- The context after the case that an open framer selects. -/
theorem contextAfterRx_of_select {c : RxContext} {b : Byte} {i : Instr} (hc : c.fstate ≠ .validating)
    (h : selectRx c b = .ok i) : contextAfterRx c b = contextAfter c i := by
  simp only [contextAfterRx, contextAccepting_of_open hc, h]

end Sys2Proof.Machine
end

