-- ==== Sys2Proof/Tests/Slice0.lean ====
section
/-! SUPPORT. The model's own tests: words written out from the encoding, values the spec lists, one step of
each instruction, and for each statement a state that meets its hypotheses. Expected values are those of
95_test_vectors.md and of the rules' own examples. -/

namespace Sys2Proof.Tests

open Sys2Proof Sys2Proof.Machine

/-! ## Helpers -/

/-- The next state of a result, for comparison by `decide`. -/
def nextOf : Result → Option State
  | .next s => some s
  | .fault _ => none
  | .refused _ => none

/-- A buffer that holds a byte string from index 0 on. -/
def cells (bs : List Byte) : Memory := (List.range bs.length).zip bs

/-- A framer state under `T1` with a candidate in the buffer, as the spec writes it:
`(FSTATE, BUFLEN, NOISE, POS, FRAME_START)`. -/
def framer (f : FState) (bs : List Byte) (noise : Bool) (pos start : Word32) : State :=
  { State.reset with
    fstate := f, bufLen := bs.length, buf := cells bs, noise := noise, pos := pos, frameStart := start }

/-- The content of the spec's frame `F1`. -/
def contentF1 : List Byte := [0x21, 0x13, 0xF5, 0x75, 0x01, 0x02, 0x03, 0x8F, 0xC2]
/-- The content of the spec's frame `F0`. -/
def contentF0 : List Byte := [0x21, 0x13, 0xF5, 0x75, 0xE2, 0xF0]
/-- Sixteen bytes, as many as `T1` has room for (V-FRM-12). -/
def content16 : List Byte :=
  [0x01, 0x02, 0x03, 0x04, 0x05, 0x06, 0x07, 0x08, 0x09, 0x0A, 0x0B, 0x0C, 0x0D, 0x0E, 0x0F, 0x10]

/-- A candidate of content `bs` awaiting validation, opened by the flag at offset 0. -/
def closed (bs : List Byte) : State :=
  framer .validating bs false (BitVec.ofNat 32 (bs.length + 2)) 0

/-- An open candidate with `bs` received so far, opened by the flag at offset 0. -/
def opened (bs : List Byte) : State :=
  framer .inFrame bs false (BitVec.ofNat 32 (bs.length + 1)) 0

/-! ## Well-formedness -/

theorem test_seek_noise_of_flag_is_ill_formed : (Instr.rxSeekNoise 0x7E).wellFormed = false := by decide
theorem test_in_data_of_flag_is_ill_formed : (Instr.rxInData 0x7E).wellFormed = false := by decide
theorem test_in_overflow_of_flag_is_ill_formed : (Instr.rxInOverflow 0x7E).wellFormed = false := by decide
/-- "0x7E is an ordinary byte here" (R58). -/
theorem test_crc_update_of_flag_is_well_formed : (Instr.crcUpdate 0x7E).wellFormed = true := by decide

/-! ## Decoding: words written out from R43 and R44 -/

theorem test_decode_crc_port :
    decode resetContext 0b0000000000000000 = .ok .crcInit ∧
    decode resetContext 0b0000000100110001 = .ok (.crcUpdate 0x31) ∧
    decode resetContext 0b0000001000000000 = .ok .crcFinal := ⟨rfl, rfl, rfl⟩

theorem test_decode_rx_seeking :
    decode resetContext 0b0001000001111110 = .ok .rxSeekFlag ∧
    decode resetContext 0b0001000001010101 = .ok (.rxSeekNoise 0x55) := ⟨rfl, rfl⟩

theorem test_decode_rx_in_frame :
    decode ⟨.inFrame, 0, 16⟩ 0b0001000001111110 = .ok .rxInFlagEmpty ∧
    decode ⟨.inFrame, 1, 16⟩ 0b0001000001111110 = .ok .rxInFlagClose ∧
    decode ⟨.inFrame, 16, 16⟩ 0b0001000001111110 = .ok .rxInFlagClose ∧
    decode ⟨.inFrame, 15, 16⟩ 0b0001000011000010 = .ok (.rxInData 0xC2) ∧
    decode ⟨.inFrame, 16, 16⟩ 0b0001000000010001 = .ok (.rxInOverflow 0x11) :=
  ⟨rfl, rfl, rfl, rfl, rfl⟩

theorem test_decode_framer_control :
    decode resetContext 0b0001000100000000 = .ok .frmValidate ∧
    decode resetContext 0b0001111100000000 = .ok .frmReset := ⟨rfl, rfl⟩

/-- The byte is held in `Validating` (R78); a low byte without operand is ignored (R43). -/
theorem test_decode_held_and_ignored :
    decode ⟨.validating, 9, 16⟩ 0x1021 = .error .rxHeld ∧
    decode resetContext 0x00FF = .ok .crcInit := ⟨rfl, rfl⟩

theorem test_decode_reserved :
    decode resetContext 0x0300 = .error (.reservedOp 0x03) ∧
    decode resetContext 0xFF00 = .error (.reservedOp 0xFF) := ⟨rfl, rfl⟩

theorem test_table_words :
    decodeTableWord 16 0x0131 = some (.crcUpdate 0x31) ∧
    decodeTableWord 16 0x107E = some .rxSeekFlag ∧
    decodeTableWord 16 0x1F00 = some .frmReset := by decide

/-! ## The CRC function: the spec's traces and vectors -/

/-- The two examples of R54. -/
theorem test_bit_step : bitStep 0xCEFF = 0x8DDF ∧ bitStep 0x0B9F = 0x173E := by decide
/-- R55's example, and `upd(0xFFFF, 0x00)` of R58. -/
theorem test_byte_update : byteUpdate 0xFFFF 0x31 = 0xC782 ∧ byteUpdate 0xFFFF 0x00 = 0xE1F0 := by
  decide +kernel
/-- V-CRC-10: "123456789". -/
theorem test_crc16_digits :
    crc16 [0x31, 0x32, 0x33, 0x34, 0x35, 0x36, 0x37, 0x38, 0x39] = 0xD64E := by decide +kernel
/-- V-CRC-1 and V-CRC-11: the empty string, the header of `F1`. -/
theorem test_crc16_header : crc16 [] = 0x0000 ∧ crc16 [0x21, 0x13] = 0xF575 := by decide +kernel
/-- V-CRC-TABLE: T[1], T[0x5A], T[0x88], T[0xFF]. -/
theorem test_crc_table :
    crcTable 0x01 = 0x1021 ∧ crcTable 0x5A = 0xFBBF ∧ crcTable 0x88 = 0x1080 ∧
    crcTable 0xFF = 0x1EF0 := by decide +kernel

/-! ## One step of each instruction -/

/-- V-CRC-18: init overwrites anything. -/
theorem test_crc_init :
    nextOf (exec .crcInit { State.reset with crc := 0x1234 }) = some State.reset := by decide +kernel

/-- V-CRC-18 and PRG-1: one byte; the second byte continues. -/
theorem test_crc_update :
    nextOf (exec (.crcUpdate 0x31) State.reset) = some { State.reset with crc := 0xC782 } ∧
    nextOf (exec (.crcUpdate 0x32) { State.reset with crc := 0xC782 }) =
      some { State.reset with crc := 0x3DBA } := by decide +kernel

/-- V-CRC-18: the value returned, and the register kept. -/
theorem test_crc_final :
    nextOf (exec .crcFinal { State.reset with crc := 0x29B1 }) =
      some { State.reset with crc := 0x29B1, returned := [0xD64E] } := by decide +kernel

/-- R70: `RX 7E` after noise (PRG-3, line 3). -/
theorem test_rx_seek_flag :
    nextOf (exec .rxSeekFlag (framer .seeking [] true 2 0)) = some (framer .inFrame [] false 3 2) := by
  decide +kernel

/-- R69: the first noise byte is reported, the second is not (PRG-3, lines 1 and 2). -/
theorem test_rx_seek_noise :
    nextOf (exec (.rxSeekNoise 0x55) State.reset) =
      some { framer .seeking [] true 1 0 with out := [.error .desync 0] } ∧
    nextOf (exec (.rxSeekNoise 0xAA) (framer .seeking [] true 1 0)) =
      some (framer .seeking [] true 2 0) := by decide +kernel

/-- V-FRM-18: without `REPORT_DESYNC` noise is silent. -/
theorem test_rx_seek_noise_unreported :
    (nextOf (exec (.rxSeekNoise 0x01) (State.powerOn { Config.chosen with reportDesync := false }))).map
      (fun t => (t.noise, t.out)) = some (true, []) := by decide +kernel

/-- R71: `RX C2` completes the content of `F1` (PRG-2, line 10). -/
theorem test_rx_in_data :
    nextOf (exec (.rxInData 0xC2) (opened (contentF1.take 8))) = some (opened contentF1) := by
  decide +kernel

/-- R72 and PRG-4, line 18: the seventeenth byte. -/
theorem test_rx_in_overflow :
    nextOf (exec (.rxInOverflow 0x11) (opened content16)) =
      some { framer .seeking content16 true 18 0 with
        bufLen := 0, out := [.error .desync 0] } := by decide +kernel

/-- V-FRM-15: `RX 7E` after `RX 7E`. -/
theorem test_rx_in_flag_empty :
    nextOf (exec .rxInFlagEmpty (opened [])) = some (framer .inFrame [] false 2 1) := by decide +kernel

/-- PRG-2, line 11; and a candidate of exactly `MAX_FRAME_LEN` bytes (R74). -/
theorem test_rx_in_flag_close :
    nextOf (exec .rxInFlagClose (opened contentF1)) = some (framer .validating contentF1 false 11 0) ∧
    nextOf (exec .rxInFlagClose (opened content16)) = some (framer .validating content16 false 18 0) := by
  decide +kernel

/-- V-FRM-1 and V-FRM-2: what a good frame leaves. -/
theorem test_frm_validate_accepts :
    nextOf (exec .frmValidate (closed contentF1)) =
      some { framer .inFrame contentF1 false 11 10 with
        bufLen := 0, out := [.payload [0x21] [0x13] [0x01, 0x02, 0x03]] } ∧
    (nextOf (exec .frmValidate (closed contentF0))).map (fun t => t.out) =
      some [.payload [0x21] [0x13] []] := by decide +kernel

/-- R82, V-FRM-5, V-FRM-7, V-FRM-20, V-FRM-12: the verdicts that reject. -/
theorem test_frm_validate_rejects :
    (nextOf (exec .frmValidate (closed [0x20, 0x13, 0xF5, 0x75, 0x01, 0x02, 0x03, 0x8F, 0xC2]))).map
      (fun t => t.out) = some [.error .headerCrcMismatch 0] ∧
    (nextOf (exec .frmValidate (closed [0x21, 0x13, 0xF5, 0x75, 0x01, 0x82, 0x03, 0x8F, 0xC2]))).map
      (fun t => t.out) = some [.error .frameCrcMismatch 0] ∧
    (nextOf (exec .frmValidate (closed [0x21, 0x13, 0xF5, 0x75, 0x01, 0x02, 0x03, 0xC2, 0x8F]))).map
      (fun t => t.out) = some [.error .frameCrcMismatch 0] ∧
    (nextOf (exec .frmValidate (closed [0x21, 0x13, 0xF5, 0x75, 0xE2]))).map
      (fun t => t.out) = some [.error .truncated 0] ∧
    (nextOf (exec .frmValidate (closed content16))).map
      (fun t => t.out) = some [.error .headerCrcMismatch 0] := by decide +kernel

/-- R91's example, and PRG-6: reset of a closed candidate emits nothing and leaves `CRC`. -/
theorem test_frm_reset :
    nextOf (exec .frmReset { closed contentF0 with crc := 0x0A8A }) =
      some { State.reset with crc := 0x0A8A } := by decide +kernel

/-- V-FRM-25: with a byte offered, a closed candidate is validated and the byte stays. -/
theorem test_step_holds_the_byte :
    (nextOf (step { closed contentF1 with input := [rxIssue 0x21] })).map
      (fun t => (t.fstate, t.pos, t.input)) = some (.inFrame, 11, [rxIssue 0x21]) := by decide +kernel

/-- A placed word is fetched by the very next step. -/
theorem test_step_runs_the_placed_word :
    nextOf (step (State.reset.withFetchWord 16 0x0131)) = some { State.reset with crc := 0xC782 } := by
  decide +kernel

/-- R50 and R51: the notation's words. -/
theorem test_stimulus_words :
    (rxIssue 0x21).word = 0x1021 ∧ validateIssue.word = 0x1100 ∧ resetIssue.word = 0x1F00 ∧
    frameContent [0x21] [0x13] [0x01, 0x02, 0x03] = contentF1 := by decide +kernel

/-- R51: `RXS` shows `VALIDATE` after each closing flag of V-FRM-19, and after no opening one. -/
theorem test_rxs_closing_flags :
    rxsIssues resetContext ([0x7E] ++ contentF1 ++ [0x7E, 0xAA, 0xBB, 0x7E]) =
      rxIssue 0x7E :: rxIssues contentF1 ++ [rxIssue 0x7E, validateIssue, rxIssue 0xAA, rxIssue 0xBB,
        rxIssue 0x7E, validateIssue] := by decide +kernel

/-- V-FRM-15, V-FRM-11 up to the recovering flag, V-FRM-25: no `VALIDATE` after adjacent flags, after a
flag that ends an overlong frame, or after a flag held by a candidate already closed. -/
theorem test_rxs_other_flags :
    rxsIssues resetContext [0x7E, 0x7E, 0x7E] = rxIssues [0x7E, 0x7E, 0x7E] ∧
    rxsIssues ⟨.inFrame, 0, 16⟩ (content16 ++ [0x11, 0x99, 0x7E]) =
      rxIssues (content16 ++ [0x11, 0x99, 0x7E]) ∧
    rxsIssues ⟨.validating, 9, 16⟩ [0x7E] = rxIssues [0x7E] := by decide +kernel

/-- PRG-2, line 12, as a debugger sees it through the numbered view (R22). -/
theorem test_view_of_closed_candidate :
    (closed contentF1).viewRegister 0 = some 0xFFFF ∧ (closed contentF1).viewRegister 1 = some 2 ∧
    (closed contentF1).viewRegister 2 = some 9 ∧ (closed contentF1).viewRegister 7 = some 16 ∧
    (closed contentF1).viewRegister 9 = none ∧
    (framer .seeking [] true 1 0).viewRegister 1 = some 4 := by decide +kernel

/-- R16 and R49: the codes. -/
theorem test_codes :
    fstateCode .seeking = 0 ∧ fstateCode .inFrame = 1 ∧ fstateCode .validating = 2 ∧
    errorCode .desync = 0 ∧ errorCode .headerCrcMismatch = 1 ∧ errorCode .frameCrcMismatch = 2 ∧
    errorCode .truncated = 3 := by decide

/-! ## The statements' hypotheses can be met

One theorem for each statement that has hypotheses, named after it. -/

theorem test_chosen_is_legal : Config.chosen.Legal := by decide

theorem test_holds_F1 : (closed contentF1).Holds contentF1 := ⟨rfl, by decide +kernel⟩
theorem test_holds_F0 : (closed contentF0).Holds contentF0 := ⟨rfl, by decide +kernel⟩
theorem test_holds_16 : (closed content16).Holds content16 := ⟨rfl, by decide +kernel⟩

/-- A state whose written bytes and offsets are as its candidate says meets the invariants. -/
theorem inv_of_holds {s : State} {bs : List Byte} (hl : s.params.Legal) (hh : s.Holds bs)
    (hb : bs.length ≤ s.params.maxFrameLen) (hf : flagByte ∉ bs)
    (h1 : s.fstate = .seeking → s.bufLen = 0) (h2 : s.fstate = .validating → 1 ≤ s.bufLen)
    (h3 : s.noise = true → s.fstate = .seeking)
    (h4 : s.fstate = .inFrame → s.pos = s.frameStart + 1 + BitVec.ofNat 32 s.bufLen)
    (h5 : s.fstate = .validating → s.pos = s.frameStart + 2 + BitVec.ofNat 32 s.bufLen)
    (h6 : s.buf.wf) (h7 : ∀ c ∈ s.buf, c.1 < s.params.maxFrameLen) : Inv s where
  legal := hl
  bounded := hh.1 ▸ hb
  seekingEmpty := h1
  validatingFilled := h2
  noiseSeeking := h3
  written := fun i hi => by
    have hi' : i < bs.length := hh.1 ▸ hi
    refine ⟨bs[i], by rw [hh.2 i hi', List.getElem?_eq_getElem hi'], fun h => hf (h ▸ List.getElem_mem hi')⟩
  openOffset := h4
  closedOffset := h5
  canonical := h6
  inSpace := h7

/-- The closed candidate of `F1` meets the invariants. -/
theorem test_inv_closed : Inv (closed contentF1) :=
  inv_of_holds (by decide) test_holds_F1 (by decide) (by decide) (by decide) (by decide) (by decide)
    (by decide) (by decide) (by decide +kernel) (by decide +kernel)

/-- So does the open candidate of `MAX_FRAME_LEN` bytes, at the bound. -/
theorem test_inv_opened : Inv (opened content16) :=
  inv_of_holds (bs := content16) (by decide) ⟨rfl, by decide +kernel⟩ (by decide) (by decide) (by decide)
    (by decide) (by decide) (by decide) (by decide) (by decide +kernel) (by decide +kernel)

theorem test_witness_EncodeThenDecode :
    (Instr.rxInData 0xC2).wellFormed = true ∧
    (Instr.rxInData 0xC2).selectedIn ⟨.inFrame, 15, 16⟩ = true ∧
    (Instr.rxInOverflow 0x11).selectedIn ⟨.inFrame, 16, 16⟩ = true ∧
    (Instr.rxInFlagClose).selectedIn ⟨.inFrame, 1, 16⟩ = true ∧
    (Instr.rxSeekNoise 0x55).selectedIn resetContext = true := by decide

theorem test_witness_DecodeThenEncode :
    decode resetContext 0x0131 = .ok (.crcUpdate 0x31) ∧
    decode resetContext 0x02FF = .ok .crcFinal := ⟨rfl, rfl⟩

theorem test_witness_RxCaseTable :
    opField 0x107E = 0x10 ∧ bField 0x107E = 0x7E ∧ FState.inFrame ≠ FState.validating ∧
    resetContext.bufLen ≤ resetContext.maxFrameLen := by decide

theorem test_witness_StepRunsDecodedInstruction :
    State.reset.params.Legal ∧ decodeCmd (rxIssue 0x55).word = .ok (.frmRx 0x55) ∧
    (rxIssue 0x55).agent.owns (.frmRx 0x55) = true ∧
    decode State.reset.rxContext (rxIssue 0x55).word = .ok (.rxSeekNoise 0x55) ∧
    decode State.reset.rxContext (tableWord 16 0x0131) = .ok (.crcUpdate 0x31) :=
  ⟨by decide, rfl, rfl, rfl, rfl⟩

theorem test_witness_OnlyRxIsHeldWhileValidating :
    (closed contentF1).params.Legal ∧ (closed contentF1).fstate = .validating ∧
    decodeCmd (rxIssue 0x21).word = .ok (.frmRx 0x21) ∧ (rxIssue 0x21).agent.owns (.frmRx 0x21) = true ∧
    (nextOf (step { closed contentF1 with input := [rxIssue 0x21] })).isSome = true ∧
    decodeCmd resetIssue.word = .ok .frmReset ∧ resetIssue.agent.owns .frmReset = true :=
  ⟨by decide, rfl, rfl, rfl, by decide +kernel, rfl, rfl⟩

theorem test_witness_IdleKeepsAllState :
    State.reset.params.Legal ∧ State.reset.input = [] ∧ State.reset.fstate ≠ .validating := by decide

theorem test_witness_ClosedCandidateIsValidatedUnasked :
    (closed contentF1).params.Legal ∧ (closed contentF1).input = [] ∧
    (closed contentF1).fstate = .validating := ⟨by decide, rfl, rfl⟩

theorem test_witness_ReservedCommandIsRefused :
    State.reset.params.Legal ∧ opField 0x0300 = 0x03 ∧ opField 0x1200 = 0x12 ∧ opField 0x1E00 = 0x1E ∧
    opField 0x1100 = 0x11 ∧ Agent.src ≠ Agent.frmu := by decide

theorem test_witness_CrcUpdateTableForm :
    exec (.crcUpdate 0x31) State.reset = .next { State.reset with crc := byteUpdate 0xFFFF 0x31 } := rfl

theorem test_witness_CrcPortRealisesCrc16 :
    State.reset.params.Legal ∧
    ({ State.reset with input := crc16Issues [0x21, 0x13] ++ [resetIssue] } : State).input =
      crc16Issues [0x21, 0x13] ++ [resetIssue] := ⟨by decide, rfl⟩

theorem test_witness_NoiseByteIsDiscarded :
    State.reset.fstate = .seeking ∧ (0x55 : Byte) ≠ 0x7E := by decide

theorem test_witness_LeadingFlagOpensCandidate : State.reset.fstate = .seeking := rfl

/-- The last byte that still fits, at index 15. -/
theorem test_witness_DataByteIsStored :
    (opened (content16.take 15)).fstate = .inFrame ∧ (0x10 : Byte) ≠ 0x7E ∧
    (opened (content16.take 15)).bufLen < (opened (content16.take 15)).params.maxFrameLen := by decide

theorem test_witness_OverflowDropsCandidate :
    (opened content16).fstate = .inFrame ∧ (0x11 : Byte) ≠ 0x7E ∧
    (opened content16).bufLen = (opened content16).params.maxFrameLen := by decide

theorem test_witness_RepeatedFlagReopensCandidate :
    (opened []).fstate = .inFrame ∧ (opened []).bufLen = 0 := ⟨rfl, rfl⟩

/-- A candidate of one byte (R74's corner case). -/
theorem test_witness_ClosingFlagAwaitsValidation :
    (opened [0x42]).fstate = .inFrame ∧ 1 ≤ (opened [0x42]).bufLen := by decide

theorem test_witness_UnselectedRxCaseIsRefused :
    (Instr.rxInData 0x21).cmd = .frmRx 0x21 ∧ (closed contentF1).fstate = .validating ∧
    State.reset.fstate ≠ .validating ∧
    decode State.reset.rxContext (encode (.rxInData 0x21)) = .ok (.rxSeekNoise 0x21) ∧
    Instr.rxSeekNoise 0x21 ≠ .rxInData 0x21 := ⟨rfl, rfl, by decide, rfl, by decide⟩

/-- Seventeen bytes, one more than fits. -/
theorem test_witness_OverlongFrameIsLost :
    (opened []).params.Legal ∧ (opened []).fstate = .inFrame ∧ (opened []).bufLen = 0 ∧
    (0x7E : Byte) ∉ content16 ++ [0x11] ∧
    (opened []).params.maxFrameLen < (content16 ++ [0x11]).length := by decide

/-- Candidates of one, five and six bytes: below, just below and at `MIN_FRAME_LEN`. -/
theorem test_witness_ValidateChecksInOrder :
    (closed [0x42]).fstate = .validating ∧ (closed [0x42]).Holds [0x42] ∧
    (closed (contentF0.take 5)).Holds (contentF0.take 5) ∧ (closed contentF0).Holds contentF0 :=
  ⟨rfl, ⟨rfl, by decide +kernel⟩, ⟨rfl, by decide +kernel⟩, test_holds_F0⟩

theorem test_witness_ResidueFormOfValidation :
    (closed contentF0).fstate = .validating ∧ (closed contentF0).Holds contentF0 ∧
    (closed contentF0).params.hdrLen + 4 ≤ contentF0.length := ⟨rfl, test_holds_F0, by decide⟩

theorem test_witness_ValidateEmitsOneEvent :
    (closed contentF1).fstate = .validating ∧
    ∀ i < (closed contentF1).bufLen, ∃ b, (closed contentF1).buf.read i = some b :=
  ⟨rfl, fun i hi => let ⟨b, h, _⟩ := test_inv_closed.written i hi; ⟨b, h⟩⟩

theorem test_witness_ValidateNeedsClosedCandidate : State.reset.fstate ≠ .validating := by decide

theorem test_witness_EmptyInfoFrameIsAccepted :
    [(0x21 : Byte)].length = (closed contentF0).params.addrLen ∧
    [(0x13 : Byte)].length = (closed contentF0).params.ctrlLen ∧
    (closed contentF0).fstate = .validating ∧ frameContent [0x21] [0x13] [] = contentF0 ∧
    (closed contentF0).Holds contentF0 := ⟨rfl, rfl, rfl, by decide +kernel, test_holds_F0⟩

/-- V-FRM-9 and V-FRM-10: `F1` less 9, 8, 4, 3 and 1 bytes. -/
theorem test_witness_TrailingTruncationVerdict :
    frameContent [0x21] [0x13] [0x01, 0x02, 0x03] = contentF1 ∧
    contentF1.take (9 - 9) = [] ∧ (opened []).fstate = .inFrame ∧ (opened []).Holds [] ∧
    (closed (contentF1.take (9 - 8))).Holds (contentF1.take (9 - 8)) ∧
    (closed (contentF1.take (9 - 4))).Holds (contentF1.take (9 - 4)) ∧
    (closed (contentF1.take (9 - 3))).Holds (contentF1.take (9 - 3)) ∧
    (closed (contentF1.take (9 - 1))).Holds (contentF1.take (9 - 1)) ∧
    (closed (contentF1.take (9 - 1))).fstate = .validating :=
  ⟨by decide +kernel, rfl, rfl, ⟨rfl, by decide⟩, ⟨rfl, by decide +kernel⟩, ⟨rfl, by decide +kernel⟩,
    ⟨rfl, by decide +kernel⟩, ⟨rfl, by decide +kernel⟩, rfl⟩

theorem test_witness_ResetStateTable :
    nextOf (exec .frmReset (closed contentF1)) = some State.reset := by decide +kernel

theorem test_witness_ResetMeetsInvariant : Config.chosen.Legal := test_chosen_is_legal

theorem test_witness_StepKeepsInvariant :
    Inv (closed contentF1) ∧ (nextOf (step (closed contentF1))).isSome = true :=
  ⟨test_inv_closed, by decide +kernel⟩

theorem test_witness_StepNeverFaults : Inv (opened content16) := test_inv_opened

/-- For `FStateTransitionTable`, `NoiseFlagWriters`, `StreamPositionWriters`,
`BufferWrittenOnlyByDataByte` and `AtMostOneEventPerOperation`: every instruction completes somewhere. -/
theorem test_witness_every_instruction_completes :
    (nextOf (exec .crcInit State.reset)).isSome = true ∧
    (nextOf (exec (.crcUpdate 0x31) State.reset)).isSome = true ∧
    (nextOf (exec .crcFinal State.reset)).isSome = true ∧
    (nextOf (exec (.rxSeekNoise 0x55) State.reset)).isSome = true ∧
    (nextOf (exec .rxSeekFlag State.reset)).isSome = true ∧
    (nextOf (exec (.rxInData 0x10) (opened (content16.take 15)))).isSome = true ∧
    (nextOf (exec (.rxInOverflow 0x11) (opened content16))).isSome = true ∧
    (nextOf (exec .rxInFlagEmpty (opened []))).isSome = true ∧
    (nextOf (exec .rxInFlagClose (opened [0x42]))).isSome = true ∧
    (nextOf (exec .frmValidate (closed contentF1))).isSome = true ∧
    (nextOf (exec .frmReset (closed contentF1))).isSome = true := by decide +kernel

theorem test_witness_BufferWrittenOnlyByDataByte :
    Instr.rxInData 0xC2 ≠ .frmReset ∧ (7 : Nat) ≠ (opened (contentF1.take 8)).bufLen ∧
    (nextOf (exec (.rxInData 0xC2) (opened (contentF1.take 8)))).isSome = true := by decide +kernel

theorem test_witness_UnitsShareNoState :
    isCrcPort (.crcUpdate 0x31) = true ∧ isCrcPort .frmValidate = false ∧
    exec (.crcUpdate 0x31) State.reset = .next { State.reset with crc := byteUpdate 0xFFFF 0x31 } :=
  ⟨rfl, rfl, rfl⟩

theorem test_witness_ParametersAreConstant :
    (nextOf (step { closed contentF1 with input := [resetIssue] })).isSome = true := by decide +kernel

theorem test_witness_PayloadIsWellShaped :
    Inv (closed contentF1) ∧ (nextOf (step (closed contentF1))).map (fun t => t.out) =
      some ((closed contentF1).out ++ [.payload [0x21] [0x13] [0x01, 0x02, 0x03]]) :=
  ⟨test_inv_closed, by decide +kernel⟩

theorem test_witness_StreamPositionsOnlyReport :
    (framer .inFrame [] false 1 0).eraseOffsets = (framer .inFrame [] false 9 8).eraseOffsets ∧
    framer .inFrame [] false 1 0 ≠ framer .inFrame [] false 9 8 := by decide

theorem test_witness_StatusViewIsLegal : Inv (closed contentF1) := test_inv_closed

/-- Resynchronisation from a closed candidate, and from an open one at the cap. -/
theorem test_witness_FlagResynchronises :
    Inv { closed contentF1 with input := [rxIssue 0x7E] } ∧
    Inv { opened content16 with input := [rxIssue 0x7E] } :=
  ⟨{ test_inv_closed with }, { test_inv_opened with }⟩

theorem test_witness_WellFormedFrameIsDelivered :
    (opened []).params.Legal ∧ (opened []).fstate = .inFrame ∧ (opened []).bufLen = 0 ∧
    frameContent [0x21] [0x13] [0x01, 0x02, 0x03] = contentF1 ∧ (0x7E : Byte) ∉ contentF1 ∧
    contentF1.length ≤ (opened []).params.maxFrameLen := by decide +kernel

theorem test_witness_NextFrameSurvivesCorruption :
    Inv { opened content16 with input := rxIssues (0x7E :: contentF1 ++ [0x7E]) } ∧
    frameContent [0x21] [0x13] [0x01, 0x02, 0x03] = contentF1 ∧ (0x7E : Byte) ∉ contentF1 :=
  ⟨{ test_inv_opened with }, by decide +kernel, by decide⟩

/-- With an `FRM.RESET` offered behind the closing flag. -/
theorem test_witness_RxsValidatesEveryCandidate :
    Inv { opened contentF1 with
      input := rxsIssues (opened contentF1).rxContext [0x7E] ++ [resetIssue] } ∧
    (opened contentF1).fstate ≠ .validating ∧
    rxsIssues (opened contentF1).rxContext [0x7E] ++ [resetIssue] =
      [rxIssue 0x7E, validateIssue, resetIssue] :=
  ⟨{ inv_of_holds (s := opened contentF1) (bs := contentF1) (by decide) ⟨rfl, by decide +kernel⟩
      (by decide) (by decide) (by decide) (by decide) (by decide) (by decide) (by decide)
      (by decide +kernel) (by decide +kernel) with }, by decide, by decide +kernel⟩

end Sys2Proof.Tests
end

/-! PROOF. The scope rules (00_scope.md R6, R7, R9): a step runs the decoded instruction, an operation writes
neither the parameters nor the offer, and it emits at most one event. -/

namespace Sys2Proof

/-- A word that decodes names a command, and the decode is that command's case (R45). -/
theorem cmd_of_decode {c : RxContext} {w : Word16} {i : Instr} (h : decode c w = .ok i) :
    ∃ cmd, decodeCmd w = .ok cmd ∧ resolve c cmd = .ok i := by
  cases hc : decodeCmd w with
  | ok cmd => exact ⟨cmd, rfl, by rw [← decode_of_cmd hc, h]⟩
  | error e => simp [decode, hc] at h

namespace Machine

variable {s t : State}

/-! ## The step -/

/-- The agent by which a placed word is offered owns the word's command (R44). -/
theorem issuer_owns {w : Word16} {cmd : Cmd} (h : decodeCmd w = .ok cmd) :
    (issuer w).owns cmd = true := by
  cases cmd <;> simp [issuer, h, Agent.owns]

/-- The first offered operation, where its agent owns it and it decodes, is the turn. -/
theorem turn_of_decode {q : Issue} {rest : List Issue} {cmd : Cmd} {i : Instr} (hp : s.params.Legal)
    (hq : s.input = q :: rest) (hc : decodeCmd q.word = .ok cmd) (ho : q.agent.owns cmd = true)
    (hd : decode s.rxContext q.word = .ok i) : s.turn = .issued i rest := by
  have hi : resolve s.rxContext cmd = .ok i := by rw [← decode_of_cmd hc, hd]
  simp [turn_cons hp hq, State.turnOf, hc, ho, hi]

/-- A step runs an owned operation that decodes, with the operation taken off the offer (R6, R7). -/
theorem step_of_decode {q : Issue} {rest : List Issue} {cmd : Cmd} {i : Instr} (hp : s.params.Legal)
    (hq : s.input = q :: rest) (hc : decodeCmd q.word = .ok cmd) (ho : q.agent.owns cmd = true)
    (hd : decode s.rxContext q.word = .ok i) : step s = exec i (s.setInput rest) := by
  rw [step, turn_of_decode hp hq hc ho hd]

/-- A placed word runs on the next step: its issuer owns it, and taking it off gives the state back. -/
theorem step_withFetchWord {nbits w : Nat} {i : Instr} (hp : s.params.Legal)
    (hd : decode s.rxContext (tableWord nbits w) = .ok i) :
    step (s.withFetchWord nbits w) = exec i s := by
  obtain ⟨cmd, hc, -⟩ := cmd_of_decode hd
  exact step_of_decode (s := s.withFetchWord nbits w) (rest := s.input) hp rfl hc (issuer_owns hc) hd

/-- Settles O5. -/
theorem stepRunsDecodedInstruction : Obligations.StepRunsDecodedInstruction :=
  ⟨fun _ _ _ _ _ hp hq hc ho hd => step_of_decode hp hq hc ho hd,
    fun _ _ _ _ hp hd => step_withFetchWord hp hd⟩

/-! ## What no operation writes -/

/-- No operation writes the parameters or the offer (R9). -/
theorem exec_params_input {i : Instr} (h : exec i s = .next t) :
    t.params = s.params ∧ t.input = s.input := by
  cases i with
  | crcInit => simp [execCrcInit_next h]
  | crcUpdate b => simp [execCrcUpdate_next h]
  | crcFinal => simp [execCrcFinal_next h]
  | rxSeekFlag => obtain ⟨-, rfl⟩ := execRxSeekFlag_next h; simp
  | rxInFlagEmpty => obtain ⟨-, -, rfl⟩ := execRxInFlagEmpty_next h; simp
  | rxInFlagClose => obtain ⟨-, -, rfl⟩ := execRxInFlagClose_next h; simp
  | rxSeekNoise b => obtain ⟨-, -, rfl⟩ := execRxSeekNoise_next h; simp
  | rxInData b => obtain ⟨-, -, -, rfl⟩ := execRxInData_next h; simp
  | rxInOverflow b => obtain ⟨-, -, -, rfl⟩ := execRxInOverflow_next h; simp
  | frmValidate => obtain ⟨-, v, -, rfl⟩ := execFrmValidate_next h; simp [report_eq]
  | frmReset => simp [execFrmReset_next h]

/-- Settles O42, by the four things a step can be. -/
theorem parametersAreConstant : Obligations.ParametersAreConstant := by
  intro s t h
  rcases step_cases s with ⟨-, -, -, hs⟩ | ⟨-, -, hs⟩ | ⟨-, q, rest, i, hq, -, hs⟩ | ⟨r, hs⟩
  · obtain rfl := next_inj (hs.symm.trans h)
    exact ⟨rfl, .inl rfl⟩
  · obtain ⟨hp, hi⟩ := exec_params_input (hs.symm.trans h)
    exact ⟨hp, .inl hi⟩
  · obtain ⟨hp, hi⟩ := exec_params_input (hs.symm.trans h)
    exact ⟨hp, .inr ⟨q, by rw [hq, hi, setInput_input]⟩⟩
  · cases hs.symm.trans h

/-! ## The events -/

/-- Reading the fields rejects nothing (R84, R87). -/
theorem acceptedFields_ne_rejected (s : State) (k : ErrorKind) :
    s.acceptedFields ≠ .ok (.rejected k) := by
  unfold State.acceptedFields
  split
  · nofun
  · split
    · nofun
    · split <;> nofun

/-- From the frame check on, the only rejection is `FrameCrcMismatch` (R83). -/
theorem frameCheck_rejected {k : ErrorKind} (h : s.frameCheck = .ok (.rejected k)) :
    k = .frameCrcMismatch := by
  unfold State.frameCheck at h
  split at h
  · cases h
  · split at h
    · cases h
    · split_ifs at h
      · cases h; rfl
      · exact absurd h (acceptedFields_ne_rejected s k)

/-- From the header check on, a rejection is a mismatch of one of the two check fields (R82). -/
theorem headerCheck_rejected {k : ErrorKind} (h : s.headerCheck = .ok (.rejected k)) :
    k = .headerCrcMismatch ∨ k = .frameCrcMismatch := by
  unfold State.headerCheck at h
  split at h
  · cases h
  · split at h
    · cases h
    · split_ifs at h
      · cases h; exact .inl rfl
      · exact .inr (frameCheck_rejected h)

/-- No verdict is `Desync`: that kind belongs to the input side (R93). -/
theorem verdict_rejected_ne_desync {k : ErrorKind} (h : s.verdict = .ok (.rejected k)) :
    k ≠ .desync := by
  unfold State.verdict at h
  split_ifs at h
  · cases h; nofun
  · rcases headerCheck_rejected h with rfl | rfl <;> nofun

/-- `FRM.VALIDATE` emits exactly one event, which is no `Desync` (R86, R93). -/
theorem execFrmValidate_out (h : exec .frmValidate s = .next t) :
    ∃ e, t.out = s.out ++ [e] ∧ ∀ off, e ≠ .error .desync off := by
  obtain ⟨-, v, hv, rfl⟩ := execFrmValidate_next h
  cases v with
  | accepted addr ctrl info => exact ⟨.payload addr ctrl info, rfl, nofun⟩
  | rejected k =>
    refine ⟨.error k s.frameStart, rfl, fun off he => ?_⟩
    injection he with hk
    exact verdict_rejected_ne_desync hv hk

/-- Noise emits nothing, or a `Desync` at its own offset (R69). -/
theorem execRxSeekNoise_out {b : Byte} (h : exec (.rxSeekNoise b) s = .next t) :
    t.out = s.out ∨ t.out = s.out ++ [.error .desync s.pos] := by
  obtain ⟨-, -, rfl⟩ := execRxSeekNoise_next h
  by_cases hr : s.noise = false ∧ s.params.reportDesync = true
  · exact .inr (if_pos hr)
  · exact .inl (if_neg hr)

/-- Settles O43, by the instruction: three of them emit, and each has its own disjuncts. -/
theorem atMostOneEventPerOperation : Obligations.AtMostOneEventPerOperation := by
  intro s t i h
  cases i with
  | frmValidate => exact .inl ⟨rfl, execFrmValidate_out h⟩
  | rxSeekNoise b =>
    rcases execRxSeekNoise_out h with ho | ho
    · exact .inr (.inl ⟨nofun, ho⟩)
    · exact .inr (.inr (.inl ⟨b, rfl, ho⟩))
  | rxInOverflow b =>
    obtain ⟨-, -, -, rfl⟩ := execRxInOverflow_next h
    exact .inr (.inr (.inr ⟨b, rfl, rfl⟩))
  | crcInit => exact .inr (.inl ⟨nofun, by rw [execCrcInit_next h]⟩)
  | crcUpdate b => exact .inr (.inl ⟨nofun, by rw [execCrcUpdate_next h]⟩)
  | crcFinal => exact .inr (.inl ⟨nofun, by rw [execCrcFinal_next h]⟩)
  | rxSeekFlag => exact .inr (.inl ⟨nofun, by rw [(execRxSeekFlag_next h).2]⟩)
  | rxInFlagEmpty => exact .inr (.inl ⟨nofun, by rw [(execRxInFlagEmpty_next h).2.2]⟩)
  | rxInFlagClose => exact .inr (.inl ⟨nofun, by rw [(execRxInFlagClose_next h).2.2]⟩)
  | rxInData b => exact .inr (.inl ⟨nofun, by rw [(execRxInData_next h).2.2.2]⟩)
  | frmReset => exact .inr (.inl ⟨nofun, by rw [execFrmReset_next h]⟩)

end Machine

end Sys2Proof

/-! PROOF. The state rules (10_state.md): reset meets the invariants and every step keeps them (R23), the two
units share no state (R15), who writes `NOISE`, `POS` and `FRAME_START` (R19 to R21), the stream positions
only report (R20, R122), and what the numbered view shows (R22). -/

namespace Sys2Proof.Machine

variable {s t : State}

/-! ## The invariants -/

/-- The invariants of a framer with an empty candidate: nothing need be said of written bytes, and the
opening flag of an open one is the byte just accepted. -/
theorem Inv.of_empty (legal : s.params.Legal) (empty : s.bufLen = 0) (notClosed : s.fstate ≠ .validating)
    (noiseSeeking : s.noise = true → s.fstate = .seeking)
    (openOffset : s.fstate = .inFrame → s.pos = s.frameStart + 1)
    (canonical : s.buf.wf) (inSpace : ∀ c ∈ s.buf, c.1 < s.params.maxFrameLen) : Inv s where
  legal := legal
  bounded := by omega
  seekingEmpty := fun _ => empty
  validatingFilled := fun h => absurd h notClosed
  noiseSeeking := noiseSeeking
  written := fun i hi => by omega
  openOffset := fun h => by rw [openOffset h, empty]; simp
  closedOffset := fun h => absurd h notClosed
  canonical := canonical
  inSpace := inSpace

/-- Power-on reset meets the invariants (R24, R112). -/
theorem powerOn_inv {p : Params} (hp : p.Legal) : Inv (State.powerOn p) :=
  .of_empty hp rfl nofun nofun nofun .nil nofun

/-- Settles O33. -/
theorem resetMeetsInvariant : Obligations.ResetMeetsInvariant :=
  ⟨fun _ hp => powerOn_inv hp, powerOn_inv (by decide)⟩

/-- A noise flag may be set only where no frame is open (I-e). -/
theorem Inv.noise_eq_false (hs : Inv s) (hf : s.fstate ≠ .seeking) : s.noise = false :=
  Bool.eq_false_iff.2 fun hn => hf (hs.noiseSeeking hn)

/-- All `FRM.VALIDATE` writes: one event, then the epilogue (R85, R86). -/
theorem execFrmValidate_writes (h : exec .frmValidate s = .next t) :
    s.fstate = .validating ∧ ∃ e, t = { s with
      out := s.out ++ [e], bufLen := 0, fstate := .inFrame, frameStart := s.pos - 1 } := by
  obtain ⟨hf, v, -, rfl⟩ := execFrmValidate_next h
  exact ⟨hf, _, by rw [report_eq]; rfl⟩

/-- A data byte keeps the invariants: it is no flag, it is stored within the buffer, and `POS` and
`BUFLEN` move together (R71). -/
theorem execRxInData_inv {b : Byte} (hs : Inv s) (h : exec (.rxInData b) s = .next t) : Inv t := by
  obtain ⟨hf, hb, hl, rfl⟩ := execRxInData_next h
  refine { hs with
    bounded := hl
    seekingEmpty := fun h => nomatch hf.symm.trans h
    validatingFilled := fun _ => Nat.le_add_left 1 _
    written := fun i hi => ?_
    openOffset := fun _ => ?_
    closedOffset := fun h => nomatch hf.symm.trans h
    canonical := write_wf _ _ hs.canonical
    inSpace := fun c hc => ?_ }
  · by_cases hlast : i = s.bufLen
    · exact ⟨b, by simp [hlast], hb⟩
    · obtain ⟨b', hr, hb'⟩ := hs.written i (Nat.lt_of_le_of_ne (Nat.le_of_lt_succ hi) hlast)
      exact ⟨b', by simpa only [read_write_other b hlast] using hr, hb'⟩
  · simp only [hs.openOffset hf, BitVec.ofNat_add, BitVec.add_assoc]
    rfl
  · rcases mem_write hc with rfl | hc
    · exact hl
    · exact hs.inSpace c hc

/-- A closing flag keeps the invariants: it counts in `POS` and not in `BUFLEN` (R74). -/
theorem execRxInFlagClose_inv (hs : Inv s) (h : exec .rxInFlagClose s = .next t) : Inv t := by
  obtain ⟨hf, hl, rfl⟩ := execRxInFlagClose_next h
  have hn : s.noise = false := hs.noise_eq_false (by simp [hf])
  refine { hs with
    seekingEmpty := nofun
    validatingFilled := fun _ => hl
    noiseSeeking := fun h => nomatch hn.symm.trans h
    openOffset := nofun
    closedOffset := fun _ => ?_ }
  simp only [hs.openOffset hf]
  bv_omega

/-- Every instruction that completes keeps the invariants: most leave the candidate empty. -/
theorem exec_keeps_inv {i : Instr} (hs : Inv s) (h : exec i s = .next t) : Inv t := by
  cases i with
  | crcInit => rw [execCrcInit_next h]; exact { hs with }
  | crcUpdate b => rw [execCrcUpdate_next h]; exact { hs with }
  | crcFinal => rw [execCrcFinal_next h]; exact { hs with }
  | rxSeekFlag =>
    obtain ⟨-, rfl⟩ := execRxSeekFlag_next h
    exact .of_empty hs.legal rfl nofun nofun (fun _ => rfl) hs.canonical hs.inSpace
  | rxInFlagEmpty =>
    obtain ⟨hf, hl, rfl⟩ := execRxInFlagEmpty_next h
    exact .of_empty hs.legal hl (by simp [hf]) hs.noiseSeeking (fun _ => rfl) hs.canonical hs.inSpace
  | rxInFlagClose => exact execRxInFlagClose_inv hs h
  | rxSeekNoise b =>
    obtain ⟨hf, -, rfl⟩ := execRxSeekNoise_next h
    exact .of_empty hs.legal (hs.seekingEmpty hf) (by simp [hf]) (fun _ => hf) (by simp [hf])
      hs.canonical hs.inSpace
  | rxInData b => exact execRxInData_inv hs h
  | rxInOverflow b =>
    obtain ⟨-, -, -, rfl⟩ := execRxInOverflow_next h
    exact .of_empty hs.legal rfl nofun (fun _ => rfl) nofun hs.canonical hs.inSpace
  | frmValidate =>
    obtain ⟨hf, e, rfl⟩ := execFrmValidate_writes h
    have hn : s.noise = false := hs.noise_eq_false (by simp [hf])
    exact .of_empty hs.legal rfl nofun (fun h => nomatch hn.symm.trans h)
      (fun _ => (BitVec.sub_add_cancel _ _).symm) hs.canonical hs.inSpace
  | frmReset =>
    rw [execFrmReset_next h]
    exact .of_empty hs.legal rfl nofun nofun nofun .nil nofun

/-- The invariants say nothing of what is offered. -/
theorem Inv.setInput (hs : Inv s) (l : List Issue) : Inv (s.setInput l) := { hs with }

/-- Settles O34, by the four things a step can be. -/
theorem stepKeepsInvariant : Obligations.StepKeepsInvariant := by
  intro s t hs h
  rcases step_cases s with ⟨-, -, -, hc⟩ | ⟨-, -, hc⟩ | ⟨-, q, rest, i, -, -, hc⟩ | ⟨r, hc⟩
  · exact next_inj (hc.symm.trans h) ▸ hs
  · exact exec_keeps_inv hs (hc.symm.trans h)
  · exact exec_keeps_inv (hs.setInput rest) (hc.symm.trans h)
  · cases hc.symm.trans h

/-! ## Two runs of one instruction -/

@[simp] theorem mapNext_next (f : State → State) (s : State) : mapNext f (.next s) = .next (f s) := rfl
@[simp] theorem mapNext_fault (f : State → State) (r : Fault) : mapNext f (.fault r) = .fault r := rfl
@[simp] theorem mapNext_refused (f : State → State) (r : Refusal) :
    mapNext f (.refused r) = .refused r := rfl

/-- What is done to the next state of a case of `FRM.RX` is done to the next state of its effect. -/
theorem mapNext_rxCase (f : State → State) (i : Instr) (s : State) (run : State → Word32 → Result) :
    mapNext f (rxCase i s run) = rxCase i s fun t off => mapNext f (run t off) := by
  unfold rxCase
  split_ifs <;> rfl

/-- Which case of `FRM.RX` is selected depends on the decode context alone (R45), so two runs of a case
agree if its effects do. -/
theorem rxCase_congr {i : Instr} {run run' : State → Word32 → Result} (hc : s.rxContext = t.rxContext)
    (hr : run s.acceptByte s.pos = run' t.acceptByte t.pos) : rxCase i s run = rxCase i t run' := by
  have hf : s.fstate = t.fstate := congrArg RxContext.fstate hc
  simp only [rxCase, hf, hc, hr]

/-- What a data byte writes within the buffer's index range (R71). -/
def State.storeByte (s : State) (b : Byte) : State :=
  { s with buf := s.buf.write s.bufLen b, bufLen := s.bufLen + 1 }

/-- The case of a data byte with its buffer write spelled out: stored in range, a fault outside (R71). -/
theorem execRxInData_eq (b : Byte) (s : State) :
    exec (.rxInData b) s = rxCase (.rxInData b) s fun t _ =>
      if t.bufLen < t.params.maxFrameLen then .next (t.storeByte b)
      else .fault (.bufWriteIllegal t.bufLen) := by
  simp only [exec, execRxInData]
  refine rxCase_congr rfl ?_
  rw [memWrite_spec]
  split_ifs <;> rfl

/-! ## Stream positions only report -/

@[simp] theorem eraseOffset_eraseOffset (e : Event) : e.eraseOffset.eraseOffset = e.eraseOffset := by
  cases e <;> rfl

@[simp] theorem eraseOffsets_eraseOffsets (s : State) :
    s.eraseOffsets.eraseOffsets = s.eraseOffsets := by
  apply State.eq_of_fields <;> simp

/-! Erasing the offsets commutes with every update but those of the positions, which it absorbs. -/

@[simp] theorem eraseOffsets_setCrc (s : State) (v : Word16) :
    (s.setCrc v).eraseOffsets = s.eraseOffsets.setCrc v := rfl
@[simp] theorem eraseOffsets_returnWord (s : State) (v : Word16) :
    (s.returnWord v).eraseOffsets = s.eraseOffsets.returnWord v := rfl
@[simp] theorem eraseOffsets_acceptByte (s : State) : s.acceptByte.eraseOffsets = s.eraseOffsets := rfl
@[simp] theorem eraseOffsets_setNoise (s : State) (v : Bool) :
    (s.setNoise v).eraseOffsets = s.eraseOffsets.setNoise v := rfl
@[simp] theorem eraseOffsets_setFrameStart (s : State) (off : Word32) :
    (s.setFrameStart off).eraseOffsets = s.eraseOffsets := rfl
@[simp] theorem eraseOffsets_setBufLen (s : State) (n : Nat) :
    (s.setBufLen n).eraseOffsets = s.eraseOffsets.setBufLen n := rfl
@[simp] theorem eraseOffsets_setFState (s : State) (f : FState) :
    (s.setFState f).eraseOffsets = s.eraseOffsets.setFState f := rfl
@[simp] theorem eraseOffsets_setInput (s : State) (l : List Issue) :
    (s.setInput l).eraseOffsets = s.eraseOffsets.setInput l := rfl
@[simp] theorem eraseOffsets_storeByte (s : State) (b : Byte) :
    (s.storeByte b).eraseOffsets = s.eraseOffsets.storeByte b := rfl
@[simp] theorem eraseOffsets_dropOverlong (s : State) :
    s.dropOverlong.eraseOffsets = s.eraseOffsets.dropOverlong := rfl
@[simp] theorem eraseOffsets_framerReset (s : State) :
    s.framerReset.eraseOffsets = s.eraseOffsets.framerReset := rfl
@[simp] theorem eraseOffsets_emit (s : State) (e : Event) :
    (s.emit e).eraseOffsets = s.eraseOffsets.emit e.eraseOffset := by
  apply State.eq_of_fields <;> simp
@[simp] theorem eraseOffsets_raiseError (s : State) (k : ErrorKind) (off : Word32) :
    (s.raiseError k off).eraseOffsets = s.eraseOffsets.raiseError k 0 := eraseOffsets_emit s _
@[simp] theorem eraseOffsets_resync (s : State) :
    s.resync.eraseOffsets = (s.eraseOffsets.setBufLen 0).setFState .inFrame := rfl
@[simp] theorem eraseOffsets_noteNoise (s : State) (off : Word32) :
    (s.noteNoise off).eraseOffsets = s.eraseOffsets.noteNoise 0 := by
  simp only [State.noteNoise, eraseOffsets_noise, eraseOffsets_params]
  by_cases hn : s.noise = true
  · simp [hn]
  · by_cases hd : s.params.reportDesync = true <;> simp [hn, hd]
@[simp] theorem eraseOffsets_report (s : State) (v : Verdict) :
    (s.report v).eraseOffsets = s.eraseOffsets.report v := by
  cases v with
  | accepted a c i => exact eraseOffsets_emit s _
  | rejected k => exact eraseOffsets_raiseError s k _

/-- The stream positions decide nothing: erased before an instruction or only after it, they leave the
same outcome (R20, R122). -/
theorem exec_eraseOffsets (i : Instr) (s : State) :
    mapNext State.eraseOffsets (exec i s.eraseOffsets) = mapNext State.eraseOffsets (exec i s) := by
  cases i with
  | crcInit => simp [exec, execCrcInit]
  | crcUpdate b => simp [exec, execCrcUpdate]
  | crcFinal => simp [exec, execCrcFinal]
  | rxSeekFlag =>
    simp only [exec, execRxSeekFlag, mapNext_rxCase]
    exact rxCase_congr rfl (by simp)
  | rxInFlagEmpty =>
    simp only [exec, execRxInFlagEmpty, mapNext_rxCase]
    exact rxCase_congr rfl (by simp)
  | rxInFlagClose =>
    simp only [exec, execRxInFlagClose, mapNext_rxCase]
    exact rxCase_congr rfl (by simp)
  | rxSeekNoise b =>
    simp only [exec, execRxSeekNoise, mapNext_rxCase]
    exact rxCase_congr rfl (by simp)
  | rxInData b =>
    simp only [execRxInData_eq, mapNext_rxCase]
    refine rxCase_congr rfl ?_
    by_cases hl : s.bufLen < s.params.maxFrameLen <;> simp [hl]
  | rxInOverflow b =>
    simp only [exec, execRxInOverflow, mapNext_rxCase]
    exact rxCase_congr rfl (by simp)
  | frmValidate =>
    have hv : s.eraseOffsets.verdict = s.verdict := verdict_congr rfl rfl rfl
    simp only [exec, execFrmValidate, eraseOffsets_fstate, hv]
    split_ifs
    · cases s.verdict <;> simp
    · rfl
  | frmReset => simp [exec, execFrmReset]

/-- Which operation comes next does not depend on the stream positions. -/
theorem turn_eraseOffsets (s : State) : s.eraseOffsets.turn = s.turn := rfl

/-- A step, by its turn, does with the positions what its instruction does. -/
theorem step_eraseOffsets (s : State) :
    mapNext State.eraseOffsets (step s.eraseOffsets) = mapNext State.eraseOffsets (step s) := by
  simp only [step, turn_eraseOffsets]
  cases s.turn with
  | idle => simp
  | sequencer => exact exec_eraseOffsets _ s
  | issued i rest => exact exec_eraseOffsets i (s.setInput rest)
  | rejected r => rfl

/-- Settles O45: both steps agree with the step from the state they have in common. -/
theorem streamPositionsOnlyReport : Obligations.StreamPositionsOnlyReport := by
  intro s s' h
  rw [← step_eraseOffsets s, h, step_eraseOffsets s']

/-! ## The two units -/

/-- The state of the CRC port: `CRC` and the returned values. -/
def State.setPort (v : Word16) (l : List Word16) (s : State) : State :=
  { s with crc := v, returned := l }

/-- What a CRC port instruction leaves in `CRC`, from what it finds there (R57 to R59). -/
def portCrc : Instr → Word16 → Word16
  | .crcInit, _ => crcInitValue
  | .crcUpdate b, r => byteUpdate r b
  | _, r => r

/-- What a CRC port instruction returns to `CLIENT` (R59). -/
def portWords : Instr → Word16 → List Word16
  | .crcFinal, r => [crcFinish r]
  | _, _ => []

/-- A CRC port instruction completes in every state, and its effect is a function of `CRC` (R15). -/
theorem exec_of_crcPort {i : Instr} (hi : isCrcPort i = true) (s : State) :
    exec i s = .next (s.setPort (portCrc i s.crc) (s.returned ++ portWords i s.crc)) := by
  cases i with
  | crcInit => simp [exec, execCrcInit, State.setCrc, State.setPort, portCrc, portWords]
  | crcUpdate b => simp [exec, execCrcUpdate, State.setCrc, State.setPort, portCrc, portWords]
  | crcFinal => rfl
  | _ => cases hi

/-- Noting noise does not involve the CRC port. -/
theorem noteNoise_setPort (v : Word16) (l : List Word16) (s : State) (off : Word32) :
    (s.setPort v l).noteNoise off = (s.noteNoise off).setPort v l := by
  rw [noteNoise_eq, noteNoise_eq]; rfl

/-- A framer instruction neither reads nor writes the state of the CRC port (R15). -/
theorem exec_setPort_of_framer {j : Instr} (hj : isCrcPort j = false) (v : Word16) (l : List Word16)
    (s : State) : exec j (s.setPort v l) = mapNext (State.setPort v l) (exec j s) := by
  cases j with
  | rxSeekFlag => simp only [exec, execRxSeekFlag, mapNext_rxCase]; exact rxCase_congr rfl rfl
  | rxInFlagEmpty => simp only [exec, execRxInFlagEmpty, mapNext_rxCase]; exact rxCase_congr rfl rfl
  | rxInFlagClose => simp only [exec, execRxInFlagClose, mapNext_rxCase]; exact rxCase_congr rfl rfl
  | rxSeekNoise b =>
    simp only [exec, execRxSeekNoise, mapNext_rxCase]
    exact rxCase_congr rfl (congrArg Host.Outcome.next (noteNoise_setPort v l s.acceptByte s.pos))
  | rxInData b =>
    simp only [execRxInData_eq, mapNext_rxCase]
    refine rxCase_congr rfl ?_
    rw [apply_ite (mapNext (State.setPort v l))]
    rfl
  | rxInOverflow b => simp only [exec, execRxInOverflow, mapNext_rxCase]; exact rxCase_congr rfl rfl
  | frmValidate =>
    have hv : (s.setPort v l).verdict = s.verdict := verdict_congr rfl rfl rfl
    have hf : (s.setPort v l).fstate = s.fstate := rfl
    simp only [exec, execFrmValidate, hv, hf]
    split_ifs
    · cases s.verdict with
      | ok w => cases w <;> rfl
      | error f => rfl
    · rfl
  | frmReset => rfl
  | _ => cases hj

/-- Settles O37. -/
theorem unitsShareNoState : Obligations.UnitsShareNoState := by
  intro s i j hi hj
  refine ⟨⟨_, portWords i s.crc, exec_of_crcPort hi s, rfl, fun s' t' hc h => ?_⟩,
    fun v l => exec_setPort_of_framer hj v l s⟩
  obtain rfl := next_inj ((exec_of_crcPort hi s').symm.trans h)
  rw [hc]
  exact ⟨rfl, rfl⟩

/-- A framer instruction that completes leaves the state of the CRC port as it is. -/
theorem port_of_framer {j : Instr} (hj : isCrcPort j = false) (h : exec j s = .next t) :
    t.crc = s.crc ∧ t.returned = s.returned := by
  have hp := exec_setPort_of_framer hj s.crc s.returned s
  rw [show s.setPort s.crc s.returned = s from rfl, h, mapNext_next] at hp
  have ht : t.setPort s.crc s.returned = t := next_inj hp
  exact ⟨(congrArg State.crc ht).symm, (congrArg State.returned ht).symm⟩

/-- Sequences that agree after a common first instruction agree. -/
theorem execAll_cons_congr {l l' : List Instr} (i : Instr) (h : ∀ t, execAll l t = execAll l' t)
    (s : State) : execAll (i :: l) s = execAll (i :: l') s := by
  simp only [execAll, h]

/-- A framer instruction and the CRC port instruction after it can be exchanged. -/
theorem execAll_swap {i j : Instr} (hi : isCrcPort i = true) (hj : isCrcPort j = false) (l : List Instr)
    (s : State) : execAll (j :: i :: l) s = execAll (i :: j :: l) s := by
  simp only [execAll, exec_of_crcPort hi, exec_setPort_of_framer hj]
  cases h : exec j s with
  | next t =>
    obtain ⟨hc, hr⟩ := port_of_framer hj h
    simp only [mapNext_next, hc, hr]
  | fault f => rfl
  | refused r => rfl

/-- A framer instruction can run after the CRC port instructions that follow it. -/
theorem execAll_framer_last {j : Instr} (hj : isCrcPort j = false) (rest : List Instr) :
    ∀ (ps : List Instr), (∀ i ∈ ps, isCrcPort i = true) → ∀ s : State,
      execAll (j :: (ps ++ rest)) s = execAll (ps ++ j :: rest) s
  | [], _, _ => rfl
  | p :: ps, hps, s => by
    obtain ⟨hp, hps⟩ := List.forall_mem_cons.1 hps
    calc execAll (j :: p :: (ps ++ rest)) s
      _ = execAll (p :: j :: (ps ++ rest)) s := execAll_swap hp hj _ s
      _ = execAll (p :: (ps ++ j :: rest)) s :=
        execAll_cons_congr p (execAll_framer_last hj rest ps hps) s

/-- Settles O38, by induction on the sequence. -/
theorem unitsRunApart : Obligations.UnitsRunApart := by
  intro s l
  induction l generalizing s with
  | nil => rfl
  | cons i l ih =>
    rw [execAll_cons_congr i ih]
    cases hi : isCrcPort i with
    | true => simp [hi]
    | false =>
      simp only [hi, List.filter_cons, Bool.not_false, if_true, Bool.false_eq_true, if_false]
      exact execAll_framer_last hi _ _ (fun _ hp => (List.mem_filter.1 hp).2) s

/-! ## The writers of `NOISE`, `POS` and `FRAME_START` -/

/-- Settles O39, by the instruction. -/
theorem noiseFlagWriters : Obligations.NoiseFlagWriters := by
  intro s t i h
  cases i with
  | crcInit => rw [execCrcInit_next h]
  | crcUpdate b => rw [execCrcUpdate_next h]
  | crcFinal => rw [execCrcFinal_next h]
  | rxSeekFlag => rw [(execRxSeekFlag_next h).2]
  | rxInFlagEmpty => rw [(execRxInFlagEmpty_next h).2.2]
  | rxInFlagClose => rw [(execRxInFlagClose_next h).2.2]
  | rxSeekNoise b => rw [(execRxSeekNoise_next h).2.2]
  | rxInData b => rw [(execRxInData_next h).2.2.2]
  | rxInOverflow b => rw [(execRxInOverflow_next h).2.2.2]
  | frmValidate => obtain ⟨-, e, rfl⟩ := execFrmValidate_writes h; rfl
  | frmReset => rw [execFrmReset_next h]

/-- Settles O40, by the instruction. -/
theorem streamPositionWriters : Obligations.StreamPositionWriters := by
  intro s t i h
  cases i with
  | crcInit => rw [execCrcInit_next h]; exact ⟨rfl, rfl⟩
  | crcUpdate b => rw [execCrcUpdate_next h]; exact ⟨rfl, rfl⟩
  | crcFinal => rw [execCrcFinal_next h]; exact ⟨rfl, rfl⟩
  | rxSeekFlag => rw [(execRxSeekFlag_next h).2]; exact ⟨rfl, rfl⟩
  | rxInFlagEmpty => rw [(execRxInFlagEmpty_next h).2.2]; exact ⟨rfl, rfl⟩
  | rxInFlagClose => rw [(execRxInFlagClose_next h).2.2]; exact ⟨rfl, rfl⟩
  | rxSeekNoise b => rw [(execRxSeekNoise_next h).2.2]; exact ⟨rfl, rfl⟩
  | rxInData b => rw [(execRxInData_next h).2.2.2]; exact ⟨rfl, rfl⟩
  | rxInOverflow b => rw [(execRxInOverflow_next h).2.2.2]; exact ⟨rfl, rfl⟩
  | frmValidate => obtain ⟨-, e, rfl⟩ := execFrmValidate_writes h; exact ⟨rfl, rfl⟩
  | frmReset => rw [execFrmReset_next h]; exact ⟨rfl, rfl⟩

/-! ## The numbered view -/

/-- The fields of `STATUS` (R22). -/
theorem statusWord_fields (s : State) :
    s.statusWord.extractLsb' 0 2 = fstateCode s.fstate ∧ s.statusWord.getLsbD 2 = s.noise ∧
    s.statusWord.extractLsb' 3 29 = 0 := by
  unfold State.statusWord
  cases s.fstate <;> cases s.noise <;> decide

/-- `STATUS` is 0, 1, 2 or 4: `NOISE` is set in `Seeking` alone (R23 I-e). -/
theorem Inv.statusWord_legal (hs : Inv s) :
    s.statusWord = 0 ∨ s.statusWord = 1 ∨ s.statusWord = 2 ∨ s.statusWord = 4 := by
  cases hn : s.noise with
  | true => simp [State.statusWord, hn, hs.noiseSeeking hn, fstateCode]
  | false => cases hf : s.fstate <;> simp [State.statusWord, hn, hf, fstateCode]

/-- The numbers 0 to 8 are registers and no other number is (R22). -/
theorem viewRegister_isSome (s : State) : ∀ n, (s.viewRegister n).isSome = true ↔ n ≤ 8
  | 0 | 1 | 2 | 3 | 4 | 5 | 6 | 7 | 8 => by simp [State.viewRegister]
  | n + 9 => by simp [State.viewRegister]

/-- `BUFLEN` fits the width R13 gives it, by I-b. -/
theorem Inv.bufLen_lt_width (hs : Inv s) : s.bufLen < 2 ^ s.params.bufLenWidth :=
  (Nat.lt_succ_of_le hs.bounded).trans_le (Nat.le_pow_clog one_lt_two _)

/-- Settles O46. -/
theorem statusViewIsLegal : Obligations.StatusViewIsLegal := by
  intro s hs
  obtain ⟨hcode, hnoise, hzero⟩ := statusWord_fields s
  refine ⟨congrArg some (BitVec.ofNat_toNat 32 s.crc).symm,
    ⟨s.statusWord, rfl, hcode, hnoise, hzero, hs.statusWord_legal⟩,
    rfl, rfl, rfl, rfl, rfl, rfl, ?_, viewRegister_isSome s, hs.bufLen_lt_width⟩
  cases hr : s.params.reportDesync <;> simp [State.viewRegister, hr]

end Sys2Proof.Machine

/-! PROOF. The memory rules (20_memory.md): no step makes an illegal buffer access or reads an unwritten byte
(R27), and only a data byte writes the buffer, at index `BUFLEN` (R26, R27). -/

namespace Sys2Proof.Machine

variable {s t : State}

/-! ## Buffer reads -/

/-- A state that meets the invariants holds a candidate: every index below `BUFLEN` is written (I-f). -/
theorem Inv.exists_holds (hs : Inv s) : ∃ bs, s.Holds bs :=
  holds_of_written fun i hi => (hs.written i hi).imp fun _ hb => hb.1

/-- From a state that meets the invariants no instruction faults: only the reads of `FRM.VALIDATE` could,
and they answer a verdict on the candidate the state holds (R27). -/
theorem exec_noFault (hs : Inv s) (i : Instr) : NoFault (exec i s) := by
  intro f h
  obtain ⟨bs, hbs⟩ := hs.exists_holds
  obtain ⟨-, -, hv⟩ := exec_fault h
  cases (verdict_of_holds hbs).symm.trans hv

/-- Settles O35, by the four things a step can be. -/
theorem stepNeverFaults : Obligations.StepNeverFaults := by
  intro s hs
  rcases step_cases s with ⟨-, -, -, hc⟩ | ⟨-, -, hc⟩ | ⟨-, q, rest, i, -, -, hc⟩ | ⟨r, hc⟩
  · rw [hc]; nofun
  · rw [hc]; exact exec_noFault hs .frmValidate
  · rw [hc]; exact exec_noFault (hs.setInput rest) i
  · rw [hc]; nofun

/-! ## Buffer writes -/

/-- All an instruction can do to the buffer: a data byte is appended at `BUFLEN` (R71), `FRM.RESET` lists
nothing (R91), and the others leave it alone (R26). -/
theorem exec_buf {i : Instr} (h : exec i s = .next t) :
    (∃ b, i = .rxInData b ∧ t.buf = s.buf.write s.bufLen b) ∨ (i = .frmReset ∧ t.buf = []) ∨
    t.buf = s.buf := by
  cases i with
  | rxInData b => exact .inl ⟨b, rfl, by rw [(execRxInData_next h).2.2.2]⟩
  | frmReset => exact .inr (.inl ⟨rfl, by rw [execFrmReset_next h]⟩)
  | crcInit => exact .inr (.inr (by rw [execCrcInit_next h]))
  | crcUpdate b => exact .inr (.inr (by rw [execCrcUpdate_next h]))
  | crcFinal => exact .inr (.inr (by rw [execCrcFinal_next h]))
  | rxSeekFlag => exact .inr (.inr (by rw [(execRxSeekFlag_next h).2]))
  | rxInFlagEmpty => exact .inr (.inr (by rw [(execRxInFlagEmpty_next h).2.2]))
  | rxInFlagClose => exact .inr (.inr (by rw [(execRxInFlagClose_next h).2.2]))
  | rxSeekNoise b => exact .inr (.inr (by rw [(execRxSeekNoise_next h).2.2]))
  | rxInOverflow b => exact .inr (.inr (by rw [(execRxInOverflow_next h).2.2.2]))
  | frmValidate => obtain ⟨-, e, rfl⟩ := execFrmValidate_writes h; exact .inr (.inr rfl)

/-- Settles O41: an append at `BUFLEN` reads as before at every other index. -/
theorem bufferWrittenOnlyByDataByte : Obligations.BufferWrittenOnlyByDataByte := by
  intro s t i h hreset a ha
  rcases exec_buf h with ⟨b, hi, hb⟩ | ⟨hi, -⟩ | hb
  · have hne : a ≠ s.bufLen := ha.resolve_left fun hd => hd b hi
    rw [hb, read_write_other b hne]
  · exact absurd hi hreset
  · rw [hb]

end Sys2Proof.Machine

/-! PROOF. The encoding rules (30_encoding.md): decoding and encoding agree (R43 to R46), a payload has the
configured field lengths and no flag in it (R42, R48), and `RXS` leaves no closed candidate (R51). -/

namespace Sys2Proof

/-! ## Commands and their cases -/

/-- What a command stands for in a context: the instruction of that command that the context selects. -/
theorem resolve_eq_ok_iff {c : RxContext} {cmd : Cmd} {i : Instr} :
    resolve c cmd = .ok i ↔ i.cmd = cmd ∧ i.selectedIn c = true := by
  constructor
  · intro h
    cases cmd with
    | frmRx b =>
      refine ⟨?_, selectedIn_of_selectRx h⟩
      rcases selectRx_cases h with ⟨-, rfl, rfl⟩ | ⟨-, -, rfl⟩ | ⟨-, rfl, -, rfl⟩ | ⟨-, rfl, -, rfl⟩ |
        ⟨-, -, -, rfl⟩ | ⟨-, -, -, rfl⟩ <;> rfl
    | _ => cases h; exact ⟨rfl, rfl⟩
  · rintro ⟨rfl, hs⟩
    cases i with
    | rxSeekFlag => simp_all [Instr.selectedIn, Instr.cmd, resolve, selectRx]
    | rxInFlagEmpty => simp_all [Instr.selectedIn, Instr.cmd, resolve, selectRx]
    | rxInFlagClose =>
      simp_all [Instr.selectedIn, Instr.cmd, resolve, selectRx, Nat.one_le_iff_ne_zero]
    | rxSeekNoise b => simp_all [Instr.selectedIn, Instr.cmd, resolve, selectRx]
    | rxInData b => simp_all [Instr.selectedIn, Instr.cmd, resolve, selectRx]
    | rxInOverflow b => simp_all [Instr.selectedIn, Instr.cmd, resolve, selectRx]
    | _ => rfl

/-- A selected instruction is well formed: the data rows of R45 exclude the flag. -/
theorem wellFormed_of_selectedIn {c : RxContext} {i : Instr} (h : i.selectedIn c = true) :
    i.wellFormed = true := by
  cases i with
  | rxSeekNoise b | rxInData b | rxInOverflow b => simp_all [Instr.selectedIn, Instr.wellFormed]
  | _ => rfl

/-- Settles O2: the encoding names the instruction's command, which resolves to it. Well-formedness is not
needed beside selection (`wellFormed_of_selectedIn`). -/
theorem encodeThenDecode : Obligations.EncodeThenDecode := by
  intro c i _ hs
  rw [encode, decode_of_cmd (decodeCmd_encodeCmd i.cmd)]
  exact resolve_eq_ok_iff.2 ⟨rfl, hs⟩

/-! ## The two fields of a word -/

/-- A word with its low byte cleared is its operation code with the operand zero (R43). -/
theorem cmdWord_opField_zero (w : Word16) : cmdWord (opField w) 0 = w &&& 0xFF00 := by
  rw [← cmdWord_and_opMask (opField w) (bField w), cmdWord_fields]

/-- A word that decodes to a command is that command's word, up to the ignored low byte (R43, R46). -/
theorem encodeCmd_of_decodeCmd {w : Word16} {cmd : Cmd} (h : decodeCmd w = .ok cmd) :
    encodeCmd cmd = w ∨
    ((cmd = .crcInit ∨ cmd = .crcFinal ∨ cmd = .frmValidate ∨ cmd = .frmReset) ∧
      encodeCmd cmd = w &&& 0xFF00) := by
  have hw := cmdWord_fields w
  have hz := cmdWord_opField_zero w
  unfold decodeCmd at h
  split_ifs at h with hop hop hop hop hop hop <;> cases h <;> rw [hop] at hw hz
  · exact .inr ⟨by simp, hz⟩
  · exact .inl hw
  · exact .inr ⟨by simp, hz⟩
  · exact .inl hw
  · exact .inr ⟨by simp, hz⟩
  · exact .inr ⟨by simp, hz⟩

/-- Settles O3: the word names a command, and the answer is the case of it that is selected. -/
theorem decodeThenEncode : Obligations.DecodeThenEncode := by
  intro c w i h
  obtain ⟨cmd, hc, hr⟩ := cmd_of_decode h
  obtain ⟨hcmd, hs⟩ := resolve_eq_ok_iff.1 hr
  refine ⟨wellFormed_of_selectedIn hs, hs, ?_⟩
  rw [encode, hcmd]
  refine (encodeCmd_of_decodeCmd hc).imp_right (And.imp_left fun hno => ?_)
  rcases hno with rfl | rfl | rfl | rfl <;> cases hr <;> simp

/-! ## The table of `FRM.RX` -/

/-- The rows of R45 are exhaustive where `FRM.RX` is enabled and `BUFLEN` within the buffer. -/
theorem exists_selectRx {c : RxContext} (hf : c.fstate ≠ .validating) (hl : c.bufLen ≤ c.maxFrameLen)
    (b : Byte) : ∃ i, selectRx c b = .ok i := by
  cases hs : c.fstate with
  | seeking =>
    simp only [selectRx, hs]
    split_ifs <;> exact ⟨_, rfl⟩
  | inFrame =>
    simp only [selectRx, hs]
    split_ifs with hb h0 hlt heq
    · exact ⟨_, rfl⟩
    · exact ⟨_, rfl⟩
    · exact ⟨_, rfl⟩
    · exact ⟨_, rfl⟩
    · omega
  | validating => contradiction

/-- A framer that holds its input selects no case (R67, R78). -/
theorem notClosed_of_selectRx {c : RxContext} {b : Byte} {i : Instr} (h : selectRx c b = .ok i) :
    c.fstate ≠ .validating := fun hv => by simp [selectRx, hv] at h

/-- Settles O4: with code 0x10 the decode is the case selection. -/
theorem rxCaseTable : Obligations.RxCaseTable := by
  intro c w b hop hb
  have hd : decode c w = selectRx c b := decode_of_cmd (decodeCmd_eq_frmRx.2 ⟨hop, hb⟩) c
  rw [hd]
  refine ⟨fun i => ⟨fun h => ?_, fun h => ?_⟩, fun hf hl => exists_selectRx hf hl b⟩
  · rcases selectRx_cases h with h | h | h | ⟨hf, hb, hl, hi⟩ | h | h
    · exact .inr (.inl h)
    · exact .inl h
    · exact .inr (.inr (.inr (.inr (.inl h))))
    · exact .inr (.inr (.inr (.inr (.inr ⟨hf, hb, Nat.one_le_iff_ne_zero.2 hl, hi⟩))))
    · exact .inr (.inr (.inl h))
    · exact .inr (.inr (.inr (.inl h)))
  · refine resolve_eq_ok_iff (cmd := .frmRx b).2 ?_
    rcases h with ⟨hf, hb, rfl⟩ | ⟨hf, rfl, rfl⟩ | ⟨hf, hb, hl, rfl⟩ | ⟨hf, hb, hl, rfl⟩ |
      ⟨hf, rfl, hl, rfl⟩ | ⟨hf, rfl, hl, rfl⟩ <;>
    exact ⟨rfl, by simp_all [Instr.selectedIn, flagByte]⟩

/-! ## Written words and reserved words -/

/-- Settles O1, by evaluation. -/
theorem writtenWordsDecode : Obligations.WrittenWordsDecode :=
  fun _ _ => ⟨rfl, rfl, rfl, rfl, rfl, rfl, rfl, rfl, rfl, rfl, rfl⟩

/-- The operand byte of an operation that takes none is ignored (R43, R46). -/
theorem decodeCmd_cmdWord_of_noOperand {op : Byte} (b : Byte)
    (hop : op = 0x00 ∨ op = 0x02 ∨ op = 0x11 ∨ op = 0x1F) :
    decodeCmd (cmdWord op b) = decodeCmd (cmdWord op 0) := by
  rcases hop with rfl | rfl | rfl | rfl <;> simp [decodeCmd]

/-- A code outside the six of R44 is reserved (R46). -/
theorem decodeCmd_of_reserved {w : Word16} (h00 : opField w ≠ 0x00) (h01 : opField w ≠ 0x01)
    (h02 : opField w ≠ 0x02) (h10 : opField w ≠ 0x10) (h11 : opField w ≠ 0x11)
    (h1F : opField w ≠ 0x1F) : decodeCmd w = .error (.reservedOp (opField w)) := by
  rw [decodeCmd, if_neg h00, if_neg h01, if_neg h02, if_neg h10, if_neg h11, if_neg h1F]

namespace Machine

variable {s t : State}

/-- A first offered word that is no command is refused (R46). -/
theorem step_of_decodeCmd_error {q : Issue} {rest : List Issue} {e : DecodeError} (hp : s.params.Legal)
    (hq : s.input = q :: rest) (hc : decodeCmd q.word = .error e) :
    step s = .refused (DecodeError.refusal e) := by
  simp [step, turn_cons hp hq, State.turnOf, hc]

/-- A first offered command is refused where its agent does not own it (R46, R105). -/
theorem step_of_not_owns {q : Issue} {rest : List Issue} {cmd : Cmd} (hp : s.params.Legal)
    (hq : s.input = q :: rest) (hc : decodeCmd q.word = .ok cmd) (ho : q.agent.owns cmd = false) :
    step s = .refused (.notIssuable q.agent) := by
  simp [step, turn_cons hp hq, State.turnOf, hc, ho]

/-- `FRM.VALIDATE` is the framer's own (R44). -/
theorem owns_frmValidate {a : Agent} (h : a ≠ .frmu) : a.owns .frmValidate = false := by
  cases a with
  | frmu => contradiction
  | _ => rfl

/-- Settles O9, a conjunct at a time: reserved codes, `FRM.VALIDATE` from outside, ignored bytes, code 3. -/
theorem reservedCommandIsRefused : Obligations.ReservedCommandIsRefused := by
  refine ⟨fun s q rest hp hq => ⟨fun h00 h01 h02 h10 h11 h1F => ?_, fun h hne => ?_⟩, fun c op b hop => ?_,
    fun f => by cases f <;> decide⟩
  · exact step_of_decodeCmd_error hp hq (decodeCmd_of_reserved h00 h01 h02 h10 h11 h1F)
  · exact step_of_not_owns hp hq (cmd := .frmValidate) (by simp [decodeCmd, h]) (owns_frmValidate hne)
  · simp only [decode, decodeCmd_cmdWord_of_noOperand b hop]

/-! ## The shape of a payload -/

/-- The fields of an accepted content are its slices, and the content has room for them (R80 to R84). -/
theorem contentVerdict_accepted {p : Params} {bs addr ctrl info : List Byte}
    (h : contentVerdict p bs = .accepted addr ctrl info) :
    p.minFrameLen ≤ bs.length ∧ addr = addrOf p bs ∧ ctrl = ctrlOf p bs ∧ info = infoOf p bs := by
  unfold contentVerdict at h
  split_ifs at h with hl
  cases h
  exact ⟨not_lt.1 hl, rfl, rfl, rfl⟩

/-- The lengths of the fields of a content that is long enough (R39). -/
theorem length_fields {p : Params} {bs : List Byte} (h : p.minFrameLen ≤ bs.length) :
    (addrOf p bs).length = p.addrLen ∧ (ctrlOf p bs).length = p.ctrlLen ∧
    (infoOf p bs).length + p.hdrLen + 4 = bs.length := by
  simp only [Params.minFrameLen, Params.hdrLen] at h
  simp only [addrOf, ctrlOf, infoOf, List.length_take, List.length_drop, Params.hdrLen]
  omega

/-- The bytes of the fields are bytes of the content (R39). -/
theorem mem_of_mem_fields {p : Params} {bs : List Byte} {b : Byte}
    (h : b ∈ addrOf p bs ++ ctrlOf p bs ++ infoOf p bs) : b ∈ bs := by
  simp only [List.mem_append] at h
  rcases h with (h | h) | h
  · exact List.mem_of_mem_take h
  · exact List.mem_of_mem_drop (List.mem_of_mem_take h)
  · exact List.mem_of_mem_drop (List.mem_of_mem_take h)

/-- The candidate of a state that meets the invariants contains no flag (I-f). -/
theorem Inv.flagByte_notMem (hs : Inv s) {bs : List Byte} (hbs : s.Holds bs) : flagByte ∉ bs := by
  intro hmem
  obtain ⟨hlen, hread⟩ := hbs
  obtain ⟨n, hn, hget⟩ := List.getElem_of_mem hmem
  obtain ⟨b, hb, hne⟩ := hs.written n (by omega)
  rw [hread n hn, List.getElem?_eq_getElem hn, hget] at hb
  exact hne (Option.some.inj hb).symm

/-- Only `FRM.VALIDATE` emits a payload (R48). -/
theorem eq_frmValidate_of_payload {i : Instr} {addr ctrl info : List Byte} (h : exec i s = .next t)
    (ho : t.out = s.out ++ [.payload addr ctrl info]) : i = .frmValidate := by
  rcases atMostOneEventPerOperation s t i h with ⟨hi, -⟩ | ⟨-, he⟩ | ⟨-, -, he⟩ | ⟨-, -, he⟩
  · exact hi
  all_goals simp [ho] at he

/-- A payload carries the fields of the candidate that was validated (R84, R86). -/
theorem exec_payload {i : Instr} {addr ctrl info bs : List Byte} (hbs : s.Holds bs)
    (h : exec i s = .next t) (ho : t.out = s.out ++ [.payload addr ctrl info]) :
    contentVerdict s.params bs = .accepted addr ctrl info := by
  obtain rfl := eq_frmValidate_of_payload h ho
  obtain ⟨-, v, hv, rfl⟩ := execFrmValidate_next h
  obtain rfl : contentVerdict s.params bs = v := Except.ok.inj ((verdict_of_holds hbs).symm.trans hv)
  rw [resync_out, report_eq, emit_out] at ho
  cases hc : contentVerdict s.params bs <;> simp_all

/-- A payload that an instruction emits from a state that meets the invariants is well shaped. -/
theorem exec_payload_shape {i : Instr} {addr ctrl info : List Byte} (hs : Inv s)
    (h : exec i s = .next t) (ho : t.out = s.out ++ [.payload addr ctrl info]) :
    addr.length = s.params.addrLen ∧ ctrl.length = s.params.ctrlLen ∧
    info.length + s.params.hdrLen + 4 = s.bufLen ∧ flagByte ∉ addr ++ ctrl ++ info := by
  obtain ⟨bs, hbs⟩ := hs.exists_holds
  obtain ⟨hmin, rfl, rfl, rfl⟩ := contentVerdict_accepted (exec_payload hbs h ho)
  obtain ⟨ha, hc, hi⟩ := length_fields hmin
  exact ⟨ha, hc, hi.trans hbs.1.symm, fun hm => hs.flagByte_notMem hbs (mem_of_mem_fields hm)⟩

/-- Settles O44, by the four things a step can be. -/
theorem payloadIsWellShaped : Obligations.PayloadIsWellShaped := by
  intro s t addr ctrl info hs h ho
  rcases step_cases s with ⟨-, -, -, hc⟩ | ⟨-, -, hc⟩ | ⟨-, q, rest, i, -, -, hc⟩ | ⟨r, hc⟩
  · obtain rfl := next_inj (hc.symm.trans h)
    simp at ho
  · exact exec_payload_shape hs (hc.symm.trans h) ho
  · exact exec_payload_shape (s := s.setInput rest) (hs.setInput rest) (hc.symm.trans h) ho
  · cases hc.symm.trans h

/-! ## Operations read nothing of what is offered -/

/-- An instruction neither reads nor writes the offer. -/
theorem exec_setInput (i : Instr) (l : List Issue) (s : State) :
    exec i (s.setInput l) = mapNext (·.setInput l) (exec i s) := by
  cases i with
  | rxSeekFlag => simp only [exec, execRxSeekFlag, mapNext_rxCase]; exact rxCase_congr rfl rfl
  | rxInFlagEmpty => simp only [exec, execRxInFlagEmpty, mapNext_rxCase]; exact rxCase_congr rfl rfl
  | rxInFlagClose => simp only [exec, execRxInFlagClose, mapNext_rxCase]; exact rxCase_congr rfl rfl
  | rxSeekNoise b =>
    simp only [exec, execRxSeekNoise, mapNext_rxCase]
    refine rxCase_congr rfl (congrArg Host.Outcome.next ?_)
    rw [noteNoise_eq, noteNoise_eq]
    rfl
  | rxInData b =>
    simp only [execRxInData_eq, mapNext_rxCase]
    refine rxCase_congr rfl ?_
    rw [apply_ite (mapNext _)]
    rfl
  | rxInOverflow b => simp only [exec, execRxInOverflow, mapNext_rxCase]; exact rxCase_congr rfl rfl
  | frmValidate =>
    have hv : (s.setInput l).verdict = s.verdict := verdict_congr rfl rfl rfl
    simp only [exec, execFrmValidate, hv, setInput_fstate]
    split_ifs
    · cases s.verdict with
      | ok w => cases w <;> rfl
      | error f => rfl
    · rfl
  | _ => rfl

/-- An instruction completes alike whatever is offered. -/
theorem exec_setInput_next {i : Instr} (h : exec i s = .next t) (l : List Issue) :
    exec i (s.setInput l) = .next (t.setInput l) := by
  rw [exec_setInput, h, mapNext_next]

/-! ## What completes -/

/-- A selected case of `FRM.RX` completes (R67, R77). -/
theorem exec_of_selectRx {b : Byte} {i : Instr} (h : selectRx s.rxContext b = .ok i) :
    ∃ t, exec i s = .next t := by
  have hs := selectedIn_of_selectRx h
  have hf : s.fstate ≠ .validating := notClosed_of_selectRx h
  rcases selectRx_cases h with ⟨-, -, rfl⟩ | ⟨-, -, rfl⟩ | ⟨-, -, -, rfl⟩ | ⟨-, -, -, rfl⟩ |
    ⟨-, -, hl, rfl⟩ | ⟨-, -, -, rfl⟩
  · rw [exec, execRxSeekFlag, rxCase_run _ hf hs]; exact ⟨_, rfl⟩
  · rw [exec, execRxSeekNoise, rxCase_run _ hf hs]; exact ⟨_, rfl⟩
  · rw [exec, execRxInFlagEmpty, rxCase_run _ hf hs]; exact ⟨_, rfl⟩
  · rw [exec, execRxInFlagClose, rxCase_run _ hf hs]; exact ⟨_, rfl⟩
  · rw [execRxInData_eq, rxCase_run _ hf hs]; exact ⟨_, if_pos hl⟩
  · rw [exec, execRxInOverflow, rxCase_run _ hf hs]; exact ⟨_, rfl⟩

/-- `FRM.VALIDATE` completes on a closed candidate (R79, R86). -/
theorem exec_frmValidate_of_closed (hs : Inv s) (hf : s.fstate = .validating) :
    ∃ t, exec .frmValidate s = .next t := by
  obtain ⟨bs, hbs⟩ := hs.exists_holds
  simp only [exec, execFrmValidate, hf, if_true, verdict_of_holds hbs]
  exact ⟨_, rfl⟩

/-- A case of `FRM.RX` is no operation of the CRC port. -/
theorem isCrcPort_of_frmRx {i : Instr} {b : Byte} (h : i.cmd = .frmRx b) : isCrcPort i = false := by
  cases i with
  | crcInit | crcUpdate _ | crcFinal => cases h
  | _ => rfl

/-- A case of `FRM.RX` counts its byte (R20). -/
theorem pos_of_frmRx {i : Instr} {b : Byte} (hi : i.cmd = .frmRx b) (h : exec i s = .next t) :
    t.pos = s.pos + 1 := by
  simpa only [hi] using (streamPositionWriters s t i h).1

/-! ## Lines offered to the block -/

/-- A line offered by the agent that owns it runs, and is taken off the offer (R6, R7). -/
theorem step_line {q : Issue} {cmd : Cmd} {i : Instr} (hp : s.params.Legal)
    (hc : decodeCmd q.word = .ok cmd) (ho : q.agent.owns cmd = true)
    (hi : resolve s.rxContext cmd = .ok i) (h : exec i s = .next t) (l : List Issue) :
    step (s.setInput (q :: l)) = .next (t.setInput l) := by
  have hd : decode s.rxContext q.word = .ok i := (decode_of_cmd hc _).trans hi
  exact (step_of_decode (s := s.setInput (q :: l)) hp rfl hc ho hd).trans (exec_setInput_next h l)

/-- A line `RX` runs the case that the state selects (R45, R50). -/
theorem step_rxIssue (hp : s.params.Legal) {b : Byte} {i : Instr}
    (hi : selectRx s.rxContext b = .ok i) (h : exec i s = .next t) (l : List Issue) :
    step (s.setInput (rxIssue b :: l)) = .next (t.setInput l) :=
  step_line (q := rxIssue b) hp (decodeCmd_encodeCmd _) rfl hi h l

/-- A line `VALIDATE` runs the framer's own step (R50). -/
theorem step_validateIssue (hp : s.params.Legal) (h : exec .frmValidate s = .next t) (l : List Issue) :
    step (s.setInput (validateIssue :: l)) = .next (t.setInput l) :=
  step_line (q := validateIssue) hp (decodeCmd_encodeCmd _) rfl rfl h l

/-- Under the sequencer's own schedule a closed candidate is validated before the next byte, or with
nothing offered, and the offer stays (R78, notes/assumptions/3.md). -/
theorem step_rxIssues_of_closed (hp : s.params.Legal) (h : exec .frmValidate s = .next t)
    (bs : List Byte) : step (s.setInput (rxIssues bs)) = .next (t.setInput (rxIssues bs)) := by
  obtain ⟨hf, -⟩ := execFrmValidate_next h
  have ht : (s.setInput (rxIssues bs)).turn = .sequencer := by
    cases bs with
    | nil => exact (turn_nil (s := s.setInput []) hp rfl).trans (if_pos hf)
    | cons b bs =>
      rw [turn_cons (s := s.setInput (rxIssues (b :: bs))) hp rfl]
      simp [State.turnOf, rxIssue, Agent.owns, resolve, selectRx, hf]
  rw [step, ht]
  exact exec_setInput_next h _

/-! ## The expansion of `RXS` -/

/-- `t` is where the framer stands after the bytes `bs` from `s`, every closed candidate validated: the
lines of `RXS` lead there one step a line, whatever is offered after them, and so do plain `RX` lines. -/
structure TakesIn (s : State) (bs : List Byte) (t : State) : Prop where
  inv : Inv t
  notClosed : t.fstate ≠ .validating
  pos : t.pos = s.pos + BitVec.ofNat 32 bs.length
  crc : t.crc = s.crc
  returned : t.returned = s.returned
  /-- The expansion goes on in the context of `t`. -/
  expansion : ∀ more, rxsIssues s.rxContext (bs ++ more) =
    rxsIssues s.rxContext bs ++ rxsIssues t.rxContext more
  rxs : ∀ rest, run (rxsIssues s.rxContext bs).length (s.setInput (rxsIssues s.rxContext bs ++ rest)) =
    .next (t.setInput rest)
  plain : ∀ more, ∃ k, run k (s.setInput (rxIssues (bs ++ more))) = .next (t.setInput (rxIssues more))

/-- The empty byte string leaves an open framer where it is. -/
theorem TakesIn.nil (hs : Inv s) (hf : s.fstate ≠ .validating) : TakesIn s [] s where
  inv := hs
  notClosed := hf
  pos := by simp
  crc := rfl
  returned := rfl
  expansion := fun _ => rfl
  rxs := fun _ => rfl
  plain := fun _ => ⟨0, rfl⟩

/-- Bytes taken in one string after the other are taken in as one. -/
theorem TakesIn.append {u : State} {bs cs : List Byte} (h : TakesIn s bs t) (h' : TakesIn t cs u) :
    TakesIn s (bs ++ cs) u where
  inv := h'.inv
  notClosed := h'.notClosed
  pos := by rw [h'.pos, h.pos, List.length_append, BitVec.ofNat_add, BitVec.add_assoc]
  crc := h'.crc.trans h.crc
  returned := h'.returned.trans h.returned
  expansion := fun more => by
    rw [List.append_assoc, h.expansion, h'.expansion, h.expansion, List.append_assoc]
  rxs := fun rest => by
    rw [h.expansion, List.length_append, List.append_assoc, run_add _ (h.rxs _)]
    exact h'.rxs rest
  plain := fun more => by
    obtain ⟨k, hk⟩ := h.plain (cs ++ more)
    obtain ⟨k', hk'⟩ := h'.plain more
    exact ⟨k + k', by rw [List.append_assoc, run_add _ hk, hk']⟩

/-- The expansion of `RXS` at a byte: an `RX`, then a `VALIDATE` if the candidate is closed by it,
then the lines for what follows (R51). -/
theorem rxsIssues_of_select {b : Byte} {i : Instr} (hi : selectRx s.rxContext b = .ok i)
    (h : exec i s = .next t) (more : List Byte) :
    rxsIssues s.rxContext (b :: more) =
      rxIssue b :: ((if t.fstate = .validating then [validateIssue] else []) ++
        rxsIssues t.rxContext more) := by
  simp only [rxsIssues, contextAfterRx_of_select (notClosed_of_selectRx hi) hi, ← exec_rxContext h,
    rxContext_fstate]

/-- A byte that closes no candidate is one line. -/
theorem TakesIn.openByte (hs : Inv s) {b : Byte} {i : Instr} (hi : selectRx s.rxContext b = .ok i)
    (h : exec i s = .next t) (ht : t.fstate ≠ .validating) : TakesIn s [b] t := by
  obtain ⟨hcmd, -⟩ := resolve_eq_ok_iff (cmd := .frmRx b).1 hi
  obtain ⟨hcrc, hret⟩ := port_of_framer (isCrcPort_of_frmRx hcmd) h
  have hx := rxsIssues_of_select hi h
  simp only [ht, if_false, List.nil_append] at hx
  refine ⟨exec_keeps_inv hs h, ht, pos_of_frmRx hcmd h, hcrc, hret, fun more => ?_, fun rest => ?_,
    fun more => ⟨1, run_succ 0 (step_rxIssue hs.legal hi h _)⟩⟩
  · simp [hx]
  · rw [hx]
    exact run_succ 0 (step_rxIssue hs.legal hi h rest)

/-- A byte that closes a candidate is two lines: the validation behind it leaves the next one open. -/
theorem TakesIn.closingByte {u : State} (hs : Inv s) {b : Byte} {i : Instr}
    (hi : selectRx s.rxContext b = .ok i) (h : exec i s = .next t) (hv : exec .frmValidate t = .next u) :
    TakesIn s [b] u := by
  have hti : Inv t := exec_keeps_inv hs h
  obtain ⟨hcmd, -⟩ := resolve_eq_ok_iff (cmd := .frmRx b).1 hi
  obtain ⟨hcrc, hret⟩ := port_of_framer (isCrcPort_of_frmRx hcmd) h
  have hpos := pos_of_frmRx hcmd h
  obtain ⟨hcrc', hret'⟩ := port_of_framer rfl hv
  obtain ⟨ht, e, hu⟩ := execFrmValidate_writes hv
  have hctx : u.rxContext = contextAccepting t.rxContext :=
    (exec_rxContext hv).trans (contextAccepting_of_closed ht).symm
  have hx := rxsIssues_of_select hi h
  simp only [ht, if_true, List.singleton_append] at hx
  refine ⟨exec_keeps_inv hti hv, by simp [hu], (congrArg State.pos hu).trans hpos,
    hcrc'.trans hcrc, hret'.trans hret, fun more => ?_, fun rest => ?_, fun more => ⟨2, ?_⟩⟩
  · simp [hx, hctx, rxsIssues_contextAccepting]
  · rw [hx]
    exact (run_succ 1 (step_rxIssue hs.legal hi h _)).trans
      (run_succ 0 (step_validateIssue hti.legal hv rest))
  · exact (run_succ 1 (step_rxIssue hs.legal hi h _)).trans
      (run_succ 0 (step_rxIssues_of_closed hti.legal hv more))

/-- Every byte is taken in, by the case that R45 selects for it (R47, R77). -/
theorem exists_takesIn_byte (hs : Inv s) (hf : s.fstate ≠ .validating) (b : Byte) :
    ∃ t, TakesIn s [b] t := by
  obtain ⟨i, hi⟩ := exists_selectRx (c := s.rxContext) hf hs.bounded b
  obtain ⟨t, h⟩ := exec_of_selectRx hi
  by_cases ht : t.fstate = .validating
  · obtain ⟨u, hv⟩ := exec_frmValidate_of_closed (exec_keeps_inv hs h) ht
    exact ⟨u, .closingByte hs hi h hv⟩
  · exact ⟨t, .openByte hs hi h ht⟩

/-- Every byte string is taken in. -/
theorem exists_takesIn (bs : List Byte) (hs : Inv s) (hf : s.fstate ≠ .validating) :
    ∃ t, TakesIn s bs t := by
  induction bs generalizing s with
  | nil => exact ⟨s, .nil hs hf⟩
  | cons b bs ih =>
    obtain ⟨t, ht⟩ := exists_takesIn_byte hs hf b
    obtain ⟨u, hu⟩ := ih ht.inv ht.notClosed
    exact ⟨u, ht.append hu⟩

/-- Settles O50, by induction on the bytes. -/
theorem rxsValidatesEveryCandidate : Obligations.RxsValidatesEveryCandidate := by
  intro s bs rest hs hf hin
  obtain ⟨t, ht⟩ := exists_takesIn bs hs hf
  obtain ⟨k, hk⟩ := ht.plain []
  rw [List.append_nil] at hk
  refine ⟨t.setInput rest, ?_, ht.notClosed, ht.pos, rfl, ht.crc, ht.returned, k, hk⟩
  rw [← ht.rxs rest, ← hin]
  rfl

end Machine

end Sys2Proof

/-! PROOF. The CRC unit (40_crc_engine.md): the bit step as arithmetic (R54), what the three port operations
write (R57 to R59), the byte update in table form (R63), the residues (R62), and the port sequence that
computes `crc16` (R60). -/

namespace Sys2Proof.Machine

variable {s : State}

/-! ## The bit step on natural numbers -/

/-- The high bit of a word16 is set from 0x8000 on. -/
theorem getLsbD_fifteen_iff (r : Word16) : r.getLsbD 15 = true ↔ 0x8000 ≤ r.toNat := by
  rw [← BitVec.msb_eq_getLsbD_last r, BitVec.msb_eq_decide, decide_eq_true_iff]

/-- Settles O10: the high bit decides the case, and truncation to the width is the mask. -/
theorem bitStepIsMaskedShift : Obligations.BitStepIsMaskedShift := by
  intro r
  have hmask : ∀ n : Nat, n &&& 0xFFFF = n % 2 ^ 16 := (Nat.and_two_pow_sub_one_eq_mod · 16)
  by_cases hr : r.getLsbD 15 = true
  · rw [if_pos ((getLsbD_fifteen_iff r).1 hr), bitStep, if_pos hr, hmask, Nat.xor_mod_two_pow,
      BitVec.toNat_xor, BitVec.toNat_shiftLeft]
    rfl
  · rw [if_neg (mt (getLsbD_fifteen_iff r).2 hr), bitStep, if_neg hr, hmask, BitVec.toNat_shiftLeft]

/-! ## The three port operations -/

/-- `CRC.INIT` completes in every state (R57). -/
theorem exec_crcInit (s : State) : exec .crcInit s = .next (s.setCrc crcInitValue) := rfl

/-- `CRC.UPDATE` completes in every state (R58). -/
theorem exec_crcUpdate (b : Byte) (s : State) :
    exec (.crcUpdate b) s = .next (s.setCrc (byteUpdate s.crc b)) := rfl

/-- `CRC.FINAL` completes in every state (R59). -/
theorem exec_crcFinal (s : State) : exec .crcFinal s = .next (s.returnWord (crcFinish s.crc)) := rfl

/-- Settles O11. -/
theorem crcInitLoadsInitialValue : Obligations.CrcInitLoadsInitialValue := exec_crcInit

/-- Settles O12: the eight steps of the byte update, written out. -/
theorem crcUpdateAppliesEightSteps : Obligations.CrcUpdateAppliesEightSteps :=
  fun s b => exec_crcUpdate b s

/-- Settles O14. -/
theorem crcFinalReturnsComplement : Obligations.CrcFinalReturnsComplement := exec_crcFinal

/-! ## The byte update in table form -/

/-- A word is its high byte, shifted into place, and its low byte (R10). -/
theorem hi8_xor_lo8 (v : Word16) : (hi8 v).zeroExtend 16 <<< 8 ^^^ (lo8 v).zeroExtend 16 = v := by
  apply BitVec.eq_of_getLsbD_eq
  intro i hi
  by_cases h : i < 8
  · simp [hi8, lo8, h, hi]
  · simp [hi8, lo8, h, hi, show i - 8 < 8 by omega, show 8 + (i - 8) = i by omega]

/-- Entering a byte into the high half is linear over XOR. -/
theorem xor_shiftLeft_byte (a b : Byte) :
    (a ^^^ b).zeroExtend 16 <<< 8 = a.zeroExtend 16 <<< 8 ^^^ b.zeroExtend 16 <<< 8 := by
  rw [BitVec.zeroExtend_eq_setWidth, BitVec.setWidth_xor, BitVec.shiftLeft_xor_distrib]

/-- A left shift by eight keeps the low byte alone. -/
theorem lo8_shiftLeft (v : Word16) : (lo8 v).zeroExtend 16 <<< 8 = v <<< 8 := by
  apply BitVec.eq_of_getLsbD_eq
  intro i hi
  simp [lo8, BitVec.getLsbD_eq_getElem, hi, show i - 8 < 8 by omega, show i - 8 < 16 by omega]

/-- While the bits that reach the top are clear, the steps only shift (R54). -/
theorem bitSteps_of_clear (k : Nat) {r : Word16} (h : ∀ j, 16 ≤ j + k → r.getLsbD j = false) :
    bitSteps k r = r <<< k := by
  induction k generalizing r with
  | zero => simp [bitSteps]
  | succ k ih =>
    have hshift : ∀ j, 16 ≤ j + k → (r <<< 1).getLsbD j = false := fun j hj => by
      rw [BitVec.getLsbD_shiftLeft]
      by_cases h0 : j < 1
      · simp [h0]
      · simp [h (j - 1) (by omega)]
    rw [bitSteps, bitStep_of_clear (h 15 (by omega)), ih hshift, ← BitVec.shiftLeft_add, Nat.add_comm]

/-- Eight steps carry a byte from the low half of the register to the high half. -/
theorem bitSteps_lowByte (b : Byte) : bitSteps 8 (b.zeroExtend 16) = b.zeroExtend 16 <<< 8 :=
  bitSteps_of_clear 8 fun j hj => by simp [BitVec.getLsbD_of_ge b j (by omega)]

/-- The byte update is its table form (R63): the steps act on the two halves of the register apart, and
on the low half they only shift. -/
theorem byteUpdate_eq_byteUpdateTable (r : Word16) (b : Byte) :
    byteUpdate r b = byteUpdateTable r b := by
  have hsplit : r ^^^ b.zeroExtend 16 <<< 8
      = (lo8 r).zeroExtend 16 ^^^ (hi8 r ^^^ b).zeroExtend 16 <<< 8 := by
    conv_lhs => rw [← hi8_xor_lo8 r]
    rw [xor_shiftLeft_byte]
    ac_rfl
  calc byteUpdate r b
    _ = bitSteps 8 ((lo8 r).zeroExtend 16) ^^^ crcTable (hi8 r ^^^ b) := by
      rw [byteUpdate, hsplit, bitSteps_xor, crcTable]
    _ = byteUpdateTable r b := by rw [bitSteps_lowByte, lo8_shiftLeft]; rfl

/-- Settles O13. -/
theorem crcUpdateTableForm : Obligations.CrcUpdateTableForm := by
  intro s t b h
  rw [execCrcUpdate_next h]
  exact byteUpdate_eq_byteUpdateTable s.crc b

/-! ## The residues -/

/-- Steps taken after steps. -/
theorem bitSteps_add (j k : Nat) (r : Word16) : bitSteps (j + k) r = bitSteps k (bitSteps j r) := by
  induction j generalizing r with
  | zero => rw [Nat.zero_add, bitSteps]
  | succ j ih => rw [Nat.add_right_comm, bitSteps, bitSteps, ih]

/-- Updating with the two bytes of a word, high byte first, is sixteen steps from the register with the
word XORed in: the low byte can enter eight steps early. -/
theorem byteUpdate_hi8_lo8 (r v : Word16) :
    byteUpdate (byteUpdate r (hi8 v)) (lo8 v) = bitSteps 16 (r ^^^ v) := by
  calc byteUpdate (byteUpdate r (hi8 v)) (lo8 v)
    _ = bitSteps 8 (bitSteps 8 (r ^^^ (hi8 v).zeroExtend 16 <<< 8)
          ^^^ bitSteps 8 ((lo8 v).zeroExtend 16)) := by
      rw [bitSteps_lowByte, byteUpdate, byteUpdate]
    _ = bitSteps 16 (r ^^^ v) := by
      rw [← bitSteps_xor, BitVec.xor_assoc, hi8_xor_lo8, ← bitSteps_add]

/-- The remainder of a message with a word appended, high byte first. -/
theorem crcRaw_append_word (d : List Byte) (v : Word16) :
    crcRaw (d ++ [hi8 v, lo8 v]) = bitSteps 16 (crcRaw d ^^^ v) := by
  rw [crcRaw_append, ← byteUpdate_hi8_lo8]
  rfl

/-- Sixteen steps from the final XOR are the residue. -/
theorem bitSteps_crcXorOut : bitSteps 16 crcXorOut = crcResidue := by decide +kernel

/-- With its check bytes appended a message leaves 0x1D0F: the remainder cancels, up to the final
XOR (R62). -/
theorem crcRaw_append_crc16 (d : List Byte) :
    crcRaw (d ++ [hi8 (crc16 d), lo8 (crc16 d)]) = crcResidue := by
  rw [crcRaw_append_word, crc16, crcFinish, ← BitVec.xor_assoc, BitVec.xor_self, BitVec.zero_xor,
    bitSteps_crcXorOut]

/-- With its uncomplemented remainder appended a message leaves zero (R62). -/
theorem crcRaw_append_crcRaw (d : List Byte) :
    crcRaw (d ++ [hi8 (crcRaw d), lo8 (crcRaw d)]) = 0 := by
  rw [crcRaw_append_word, BitVec.xor_self]
  exact bitSteps_zero _

/-- Settles O16. -/
theorem crcResidueIsConstant : Obligations.CrcResidueIsConstant := by
  intro d
  have hc := crcRaw_append_crc16 d
  have hu := crcRaw_append_crcRaw d
  exact ⟨hc, by rw [crc16, hc]; rfl, hu, by rw [crc16, hu]; rfl⟩

/-! ## The port sequence -/

/-- A line of the CRC port runs in every state of the framer, and is taken off the offer (R50). -/
theorem step_clientIssue {t : State} {cmd : Cmd} {i : Instr} (hp : s.params.Legal)
    (ho : Agent.client.owns cmd = true) (hi : resolve s.rxContext cmd = .ok i)
    (h : exec i s = .next t) (l : List Issue) :
    step (s.setInput (clientIssue cmd :: l)) = .next (t.setInput l) :=
  step_line (q := clientIssue cmd) hp (decodeCmd_encodeCmd cmd) ho hi h l

/-- One `CRC.UPDATE` line a byte folds the bytes into `CRC` (R64). -/
theorem run_crcUpdates (bs : List Byte) (l : List Issue) (hp : s.params.Legal) :
    run bs.length (s.setInput ((bs.map fun b => clientIssue (.crcUpdate b)) ++ l)) =
      .next ((s.setCrc (bs.foldl byteUpdate s.crc)).setInput l) := by
  induction bs generalizing s with
  | nil => rfl
  | cons b bs ih =>
    exact (run_succ bs.length (step_clientIssue hp rfl rfl (exec_crcUpdate b s) _)).trans
      (ih (s := s.setCrc (byteUpdate s.crc b)) hp)

/-- The lines of `CRC16` leave the remainder in `CRC` and return the function's value (R60): the first line
loads the initial value, the updates fold the bytes in, the last line returns. -/
theorem run_crc16Issues (bs : List Byte) (l : List Issue) (hp : s.params.Legal) :
    run (bs.length + 2) (s.setInput (crc16Issues bs ++ l)) =
      .next (((s.setCrc (crcRaw bs)).returnWord (crc16 bs)).setInput l) := by
  have hinit := step_clientIssue (cmd := .crcInit) hp rfl rfl (exec_crcInit s)
  have hupdates := run_crcUpdates (s := s.setCrc crcInitValue) bs ([clientIssue .crcFinal] ++ l) hp
  have hfinal := step_clientIssue (s := s.setCrc (crcRaw bs)) (cmd := .crcFinal) hp rfl rfl
    (exec_crcFinal _) l
  rw [crc16Issues, List.append_assoc, List.cons_append]
  exact (run_succ (bs.length + 1) (hinit _)).trans ((run_add 1 hupdates).trans (run_succ 0 hfinal))

/-- Settles O15. -/
theorem crcPortRealisesCrc16 : Obligations.CrcPortRealisesCrc16 := by
  intro s bs rest hp hin
  have h := run_crc16Issues bs rest hp
  rwa [← hin] at h

end Sys2Proof.Machine

/-! PROOF. The framer's input side (41_framer_rx.md): what each case of `FRM.RX` writes (R69 to R74) and where it
is refused, the transition table of `FSTATE` (R68), and what a flag and a well-formed content behind it bring
about (R77, R114). -/

namespace Sys2Proof.Machine

variable {s t : State}

/-! ## A case of `FRM.RX` and its condition -/

/-- A case of `FRM.RX` runs where R45 selects it (R67). -/
theorem exec_of_selectedIn {i : Instr} {b : Byte} (hcmd : i.cmd = .frmRx b)
    (hsel : i.selectedIn s.rxContext = true) : ∃ t, exec i s = .next t :=
  exec_of_selectRx (resolve_eq_ok_iff (cmd := .frmRx b).2 ⟨hcmd, hsel⟩)

/-- Every case of `FRM.RX` runs under the common conditions (R67). -/
theorem exec_of_frmRx {i : Instr} {b : Byte} (hcmd : i.cmd = .frmRx b) (s : State) :
    ∃ run, exec i s = rxCase i s run := by
  cases i with
  | rxSeekFlag => rw [exec, execRxSeekFlag]; exact ⟨_, rfl⟩
  | rxInFlagEmpty => rw [exec, execRxInFlagEmpty]; exact ⟨_, rfl⟩
  | rxInFlagClose => rw [exec, execRxInFlagClose]; exact ⟨_, rfl⟩
  | rxSeekNoise b => rw [exec, execRxSeekNoise]; exact ⟨_, rfl⟩
  | rxInData b => rw [exec, execRxInData]; exact ⟨_, rfl⟩
  | rxInOverflow b => rw [exec, execRxInOverflow]; exact ⟨_, rfl⟩
  | crcInit | crcUpdate _ | crcFinal | frmValidate | frmReset => cases hcmd

/-- A case is held while a closed candidate awaits its validation (R78). -/
theorem rxCase_of_closed (i : Instr) (run : State → Word32 → Result) (hf : s.fstate = .validating) :
    rxCase i s run = .refused .rxHeld := if_pos hf

/-- An open framer refuses a case that is not selected. -/
theorem rxCase_of_not_selectedIn {i : Instr} (run : State → Word32 → Result)
    (hf : s.fstate ≠ .validating) (hsel : ¬ i.selectedIn s.rxContext = true) :
    rxCase i s run = .refused .rxCaseNotSelected := by
  rw [rxCase, if_neg hf, if_neg hsel]

/-- An encoding decodes to its instruction exactly where that instruction is selected (R45). -/
theorem decode_encode_iff {c : RxContext} {i : Instr} :
    decode c (encode i) = .ok i ↔ i.selectedIn c = true := by
  rw [encode, decode_of_cmd (decodeCmd_encodeCmd _), resolve_eq_ok_iff]
  exact and_iff_right rfl

/-- Settles O23. -/
theorem unselectedRxCaseIsRefused : Obligations.UnselectedRxCaseIsRefused := by
  intro s i b hcmd
  obtain ⟨run, hrun⟩ := exec_of_frmRx hcmd s
  rw [hrun]
  exact ⟨rxCase_of_closed i run, fun hf hd => rxCase_of_not_selectedIn run hf (mt decode_encode_iff.2 hd)⟩

/-! ## The six cases -/

/-- Settles O17. -/
theorem noiseByteIsDiscarded : Obligations.NoiseByteIsDiscarded := by
  intro s b hf (hb : b ≠ flagByte)
  obtain ⟨t, ht⟩ := exec_of_selectedIn (s := s) (i := .rxSeekNoise b) rfl
    (by simp [Instr.selectedIn, hf, hb])
  rw [ht, (execRxSeekNoise_next ht).2.2]

/-- Settles O18. -/
theorem leadingFlagOpensCandidate : Obligations.LeadingFlagOpensCandidate := by
  intro s hf
  obtain ⟨t, ht⟩ := exec_of_selectedIn (s := s) (i := .rxSeekFlag) rfl (by simp [Instr.selectedIn, hf])
  rw [ht, (execRxSeekFlag_next ht).2]

/-- An open candidate with room stores a data byte and counts it (R71). -/
theorem exec_rxInData {b : Byte} (hf : s.fstate = .inFrame) (hb : b ≠ flagByte)
    (hl : s.bufLen < s.params.maxFrameLen) :
    exec (.rxInData b) s = .next (s.acceptByte.storeByte b) := by
  obtain ⟨t, ht⟩ := exec_of_selectedIn (s := s) (i := .rxInData b) rfl
    (by simp [Instr.selectedIn, hf, hb, hl])
  rw [ht, (execRxInData_next ht).2.2.2]
  rfl

/-- Settles O19, by the laws of a buffer write. -/
theorem dataByteIsStored : Obligations.DataByteIsStored := fun s b hf hb hl =>
  ⟨s.acceptByte.storeByte b, exec_rxInData hf hb hl, rfl, read_write_same s.buf s.bufLen b,
    fun _ ha => read_write_other b ha⟩

/-- Settles O20. -/
theorem overflowDropsCandidate : Obligations.OverflowDropsCandidate := by
  intro s b hf (hb : b ≠ flagByte) hl
  obtain ⟨t, ht⟩ := exec_of_selectedIn (s := s) (i := .rxInOverflow b) rfl
    (by simp [Instr.selectedIn, hf, hb, hl])
  rw [ht, (execRxInOverflow_next ht).2.2.2]

/-- Settles O21. -/
theorem repeatedFlagReopensCandidate : Obligations.RepeatedFlagReopensCandidate := by
  intro s hf hl
  obtain ⟨t, ht⟩ := exec_of_selectedIn (s := s) (i := .rxInFlagEmpty) rfl
    (by simp [Instr.selectedIn, hf, hl])
  rw [ht, (execRxInFlagEmpty_next ht).2.2]

/-- Settles O22. -/
theorem closingFlagAwaitsValidation : Obligations.ClosingFlagAwaitsValidation := by
  intro s hf hl
  obtain ⟨t, ht⟩ := exec_of_selectedIn (s := s) (i := .rxInFlagClose) rfl
    (by simp [Instr.selectedIn, hf, hl])
  rw [ht, (execRxInFlagClose_next ht).2.2]

/-! ## The transition table -/

/-- Settles O36, a row of R68 for each instruction. -/
theorem fStateTransitionTable : Obligations.FStateTransitionTable := by
  intro s t i h
  cases i with
  | crcInit => rw [execCrcInit_next h]
  | crcUpdate b => rw [execCrcUpdate_next h]
  | crcFinal => rw [execCrcFinal_next h]
  | rxSeekFlag => obtain ⟨hf, rfl⟩ := execRxSeekFlag_next h; exact ⟨hf, rfl⟩
  | rxSeekNoise b => obtain ⟨hf, hb, rfl⟩ := execRxSeekNoise_next h; exact ⟨hf, hb, hf⟩
  | rxInData b => obtain ⟨hf, hb, hl, rfl⟩ := execRxInData_next h; exact ⟨hf, hb, hl, hf⟩
  | rxInOverflow b => obtain ⟨hf, hb, hl, rfl⟩ := execRxInOverflow_next h; exact ⟨hf, hb, hl, rfl⟩
  | rxInFlagEmpty => obtain ⟨hf, hl, rfl⟩ := execRxInFlagEmpty_next h; exact ⟨hf, hl, hf⟩
  | rxInFlagClose => obtain ⟨hf, hl, rfl⟩ := execRxInFlagClose_next h; exact ⟨hf, hl, rfl⟩
  | frmValidate => obtain ⟨hf, e, rfl⟩ := execFrmValidate_writes h; exact ⟨hf, rfl⟩
  | frmReset => rw [execFrmReset_next h]

/-! ## The verdict on a well-formed content -/

/-- A word is put together from its two bytes (R10, R40). -/
theorem be16_hi8_lo8 (v : Word16) : be16 (hi8 v) (lo8 v) = v := by
  apply BitVec.eq_of_getLsbD_eq
  intro i hi
  by_cases h : i < 8
  · simp [be16, hi8, lo8, h, hi]
  · simp [be16, hi8, lo8, h, hi, show i - 8 < 8 by omega, show 8 + (i - 8) = i by omega]

/-- A check field is read where its two bytes stand (R40). -/
theorem be16At_checkBytes (pre post : List Byte) (v : Word16) {n : Nat} (hn : n = pre.length) :
    be16At (pre ++ checkBytes v ++ post) n = v := by
  subst hn
  simp [be16At, checkBytes, be16_hi8_lo8]

@[simp] theorem length_checkBytes (v : Word16) : (checkBytes v).length = 2 := rfl

theorem length_headerContent (addr ctrl : List Byte) :
    (headerContent addr ctrl).length = (addr ++ ctrl).length + 2 := by
  rw [headerContent, List.length_append, length_checkBytes]

theorem length_frameContent (addr ctrl info : List Byte) :
    (frameContent addr ctrl info).length = (headerContent addr ctrl ++ info).length + 2 := by
  rw [frameContent, List.length_append, length_checkBytes]

section
variable {p : Params} {addr ctrl : List Byte} (info : List Byte)

/-- The fields of a well-formed content are the fields it was built from (R39, R51). -/
theorem fields_frameContent (ha : addr.length = p.addrLen) (hc : ctrl.length = p.ctrlLen) :
    addrOf p (frameContent addr ctrl info) = addr ∧ ctrlOf p (frameContent addr ctrl info) = ctrl ∧
    infoOf p (frameContent addr ctrl info) = info := by
  have hh : (headerContent addr ctrl).length = p.hdrLen + 2 := by
    rw [length_headerContent, List.length_append, ha, hc, Params.hdrLen]
  have hi : (frameContent addr ctrl info).length - p.hdrLen - 4 = info.length := by
    rw [length_frameContent, List.length_append, hh]
    omega
  refine ⟨?_, ?_, ?_⟩
  · simp [addrOf, frameContent, headerContent, ← ha]
  · simp [ctrlOf, frameContent, headerContent, ← ha, ← hc]
  · rw [infoOf, hi, frameContent, List.append_assoc, List.drop_left' hh, List.take_left' rfl]

/-- A well-formed content passes the three checks, whatever its fields are (R51, R80 to R84). -/
theorem contentVerdict_frameContent (ha : addr.length = p.addrLen) (hc : ctrl.length = p.ctrlLen) :
    contentVerdict p (frameContent addr ctrl info) = .accepted addr ctrl info := by
  have hh : p.hdrLen = (addr ++ ctrl).length := by rw [List.length_append, ha, hc, Params.hdrLen]
  have hlen := length_frameContent addr ctrl info
  have hhcs : be16At (frameContent addr ctrl info) p.hdrLen =
      crc16 ((frameContent addr ctrl info).take p.hdrLen) := by
    rw [frameContent, headerContent, List.append_assoc, be16At_checkBytes _ _ _ hh, List.append_assoc,
      List.take_left' hh.symm]
  have hfcs : be16At (frameContent addr ctrl info) ((frameContent addr ctrl info).length - 2) =
      crc16 ((frameContent addr ctrl info).take ((frameContent addr ctrl info).length - 2)) := by
    rw [hlen, Nat.add_sub_cancel, frameContent, List.take_left' rfl]
    simpa only [List.append_nil] using be16At_checkBytes (headerContent addr ctrl ++ info) [] _ rfl
  have hmin : ¬ (frameContent addr ctrl info).length < p.minFrameLen := by
    rw [hlen, List.length_append, length_headerContent, Params.minFrameLen, hh]
    omega
  obtain ⟨haddr, hctrl, hinfo⟩ := fields_frameContent info ha hc
  rw [contentVerdict, if_neg hmin, if_neg (not_not.2 hhcs), if_neg (not_not.2 hfcs), haddr, hctrl, hinfo]

end

/-! ## A content taken in -/

/-- The bytes `bs` accepted and stored one after the other (R71). -/
def State.storeBytes (s : State) : List Byte → State
  | [] => s
  | b :: bs => (s.acceptByte.storeByte b).storeBytes bs

/-- One byte more counts one more in `POS` (R20). -/
theorem add_ofNat_succ (p : Word32) (n : Nat) :
    p + BitVec.ofNat 32 (n + 1) = p + BitVec.ofNat 32 n + 1 := by
  rw [BitVec.ofNat_add, ← BitVec.add_assoc]
  rfl

/-- All that storing bytes changes: the positions move on, and `BUF` (R71). -/
theorem storeBytes_eq (bs : List Byte) (s : State) : s.storeBytes bs = { s with
    pos := s.pos + BitVec.ofNat 32 bs.length, bufLen := s.bufLen + bs.length
    buf := (s.storeBytes bs).buf } := by
  induction bs generalizing s with
  | nil => simp [State.storeBytes]
  | cons b bs ih =>
    have hlen : s.bufLen + 1 + bs.length = s.bufLen + (bs.length + 1) := by omega
    have hpos : s.pos + 1 + BitVec.ofNat 32 bs.length = s.pos + BitVec.ofNat 32 (bs.length + 1) := by
      rw [add_ofNat_succ]
      ac_rfl
    rw [State.storeBytes, ih, List.length_cons, ← hlen, ← hpos]
    rfl

/-- A stored byte is the last of the candidate (R71). -/
theorem holds_storeByte {cs : List Byte} (h : s.Holds cs) (b : Byte) :
    (s.acceptByte.storeByte b).Holds (cs ++ [b]) := by
  obtain ⟨hl, hr⟩ := h
  refine ⟨by simp [State.storeByte, hl], fun i hi => ?_⟩
  rcases Nat.lt_or_ge i cs.length with hlt | hge
  · rw [List.getElem?_append_left hlt, ← hr i hlt]
    exact read_write_other b (by rw [acceptByte_bufLen]; omega)
  · rw [List.length_append, List.length_singleton] at hi
    obtain rfl : i = cs.length := by omega
    rw [List.getElem?_concat_length, ← hl]
    exact read_write_same _ _ b

/-- Stored bytes follow the candidate that was there (R71). -/
theorem holds_storeBytes {cs : List Byte} (bs : List Byte) (h : s.Holds cs) :
    (s.storeBytes bs).Holds (cs ++ bs) := by
  induction bs generalizing s cs with
  | nil => rwa [List.append_nil]
  | cons b bs ih =>
    rw [List.append_cons]
    exact ih (holds_storeByte h b)

/-- The lines of bytes that are no flags store them, where the buffer has room (R71, R77). -/
theorem run_rxIssues_data (bs : List Byte) (l : List Issue) (hp : s.params.Legal)
    (hf : s.fstate = .inFrame) (hbs : flagByte ∉ bs) (hl : s.bufLen + bs.length ≤ s.params.maxFrameLen) :
    run bs.length (s.setInput (rxIssues bs ++ l)) = .next ((s.storeBytes bs).setInput l) := by
  induction bs generalizing s with
  | nil => rfl
  | cons b bs ih =>
    obtain ⟨hb, hbs⟩ := not_or.1 (mt List.mem_cons.2 hbs)
    have hroom : s.bufLen + 1 + bs.length ≤ s.params.maxFrameLen := by
      rwa [Nat.add_right_comm, Nat.add_assoc]
    have hsel : selectRx s.rxContext b = .ok (.rxInData b) := by
      simp [selectRx, hf, Ne.symm hb, show s.bufLen < s.params.maxFrameLen by omega]
    exact (run_succ bs.length (step_rxIssue hp hsel (exec_rxInData hf (Ne.symm hb) (by omega)) _)).trans
      (ih (s := s.acceptByte.storeByte b) hp hf hbs hroom)

/-- `t` is `s`, where a candidate was open and empty, with the content `bs` and its closing flag taken
in (R71, R74). -/
structure Closes (s : State) (bs : List Byte) (t : State) : Prop where
  eq : t = { s with
    pos := s.pos + BitVec.ofNat 32 (bs.length + 1), bufLen := bs.length, fstate := .validating
    buf := t.buf }
  holds : t.Holds bs

/-- A content that is not empty, has no flag in it and fits the buffer is closed by the flag behind it
(R74, R77). -/
theorem exists_closes (bs : List Byte) (hp : s.params.Legal) (hf : s.fstate = .inFrame)
    (h0 : s.bufLen = 0) (hne : bs ≠ []) (hbs : flagByte ∉ bs) (hl : bs.length ≤ s.params.maxFrameLen) :
    ∃ t, Closes s bs t ∧ ∀ l, run (bs.length + 1) (s.setInput (rxIssues (bs ++ [flagByte]) ++ l)) =
      .next (t.setInput l) := by
  have hu := storeBytes_eq bs s
  have hheld : (s.storeBytes bs).Holds bs := holds_storeBytes (cs := []) bs ⟨h0, nofun⟩
  have huf : (s.storeBytes bs).fstate = .inFrame := (congrArg State.fstate hu).trans hf
  have hul : 1 ≤ (s.storeBytes bs).bufLen := hheld.1 ▸ List.length_pos_iff.2 hne
  have hsel : selectRx (s.storeBytes bs).rxContext flagByte = .ok .rxInFlagClose := by
    simp [selectRx, huf, Nat.one_le_iff_ne_zero.1 hul]
  have hclose := closingFlagAwaitsValidation _ huf hul
  refine ⟨{ s.storeBytes bs with pos := (s.storeBytes bs).pos + 1, fstate := .validating },
    ⟨?_, hheld⟩, fun l => ?_⟩
  · conv_lhs => rw [hu]
    simp [h0, add_ofNat_succ]
  · have hdata := run_rxIssues_data bs (rxIssue flagByte :: l) hp hf hbs (by omega)
    rw [rxIssues, List.map_append, List.append_assoc]
    exact (run_add 1 hdata).trans
      (run_succ 0 (step_rxIssue ((congrArg State.params hu).symm ▸ hp) hsel hclose l))

/-! ## Delivery -/

/-- What `FRM.VALIDATE` does on a closed candidate by its content (R86). -/
theorem exec_frmValidate_of_holds {bs : List Byte} (hf : s.fstate = .validating) (hbs : s.Holds bs) :
    exec .frmValidate s = .next (s.report (contentVerdict s.params bs)).resync := by
  rw [exec, execFrmValidate, if_pos hf, verdict_of_holds hbs]

/-- Where a candidate is open and empty, a well-formed content and its closing flag lead to a closed
candidate whose validation gives exactly its payload, with the closing flag as the next opening flag
(R77, R85, R114). -/
theorem exists_delivery {addr ctrl info : List Byte} (hp : s.params.Legal) (hf : s.fstate = .inFrame)
    (h0 : s.bufLen = 0) (ha : addr.length = s.params.addrLen) (hc : ctrl.length = s.params.ctrlLen)
    (hno : flagByte ∉ frameContent addr ctrl info)
    (hl : (frameContent addr ctrl info).length ≤ s.params.maxFrameLen) :
    ∃ t u,
      (∀ l, run ((frameContent addr ctrl info).length + 1)
        (s.setInput (rxIssues (frameContent addr ctrl info ++ [flagByte]) ++ l)) =
          .next (t.setInput l)) ∧
      t.params = s.params ∧ exec .frmValidate t = .next u ∧
      u = { s with
        pos := s.pos + BitVec.ofNat 32 ((frameContent addr ctrl info).length + 1)
        frameStart := s.pos + BitVec.ofNat 32 (frameContent addr ctrl info).length
        buf := u.buf, out := s.out ++ [.payload addr ctrl info] } := by
  have hne : frameContent addr ctrl info ≠ [] := by
    simp [← List.length_pos_iff, length_frameContent]
  obtain ⟨t, ⟨heq, hheld⟩, hrun⟩ := exists_closes _ hp hf h0 hne hno hl
  have htf : t.fstate = .validating := congrArg State.fstate heq
  have htp : t.params = s.params := by rw [heq]
  have hval := exec_frmValidate_of_holds htf hheld
  rw [htp, contentVerdict_frameContent info ha hc] at hval
  refine ⟨t, _, hrun, htp, hval, ?_⟩
  have hstart (n : Nat) : s.pos + BitVec.ofNat 32 (n + 1) - 1 = s.pos + BitVec.ofNat 32 n := by
    rw [add_ofNat_succ, BitVec.add_sub_cancel]
  rw [heq]
  exact State.eq_of_fields rfl rfl hf.symm h0.symm rfl rfl rfl (hstart _) rfl rfl rfl

/-- A run from a state is the run from it with its own offer put in place. -/
theorem run_of_input {k : Nat} {l : List Issue} {r : Result} (hin : s.input = l)
    (h : run k (s.setInput l) = r) : run k s = r := by
  rw [← h, ← hin]
  rfl

/-- Settles O48: the delivery, with the validation offered as a line. -/
theorem wellFormedFrameIsDelivered : Obligations.WellFormedFrameIsDelivered := by
  intro s addr ctrl info rest hp hf h0 ha hc hno hl hin
  obtain ⟨t, u, hrun, htp, hval, hu⟩ := exists_delivery hp hf h0 ha hc hno hl
  have hlast := step_validateIssue (htp.symm ▸ hp) hval rest
  exact ⟨u.setInput rest, run_of_input hin ((run_add 1 (hrun _)).trans (run_succ 0 hlast)),
    congrArg (·.setInput rest) hu⟩

/-! ## Resynchronisation -/

/-- In `t` a new candidate is open and empty, and at most one event has been emitted since `s`. -/
structure Resynced (s t : State) : Prop where
  inv : Inv t
  params : t.params = s.params
  fstate : t.fstate = .inFrame
  bufLen : t.bufLen = 0
  out : ∃ before, t.out = s.out ++ before ∧ before.length ≤ 1

/-- Nothing emitted and no parameter written before it, a resynchronisation is one from further back. -/
theorem Resynced.of_silent {u : State} (h : Resynced t u) (hp : t.params = s.params)
    (ho : t.out = s.out) : Resynced s u :=
  { h with params := h.params.trans hp, out := ho ▸ h.out }

/-- An instruction that emits nothing and leaves a candidate open and empty resynchronises. -/
theorem Resynced.of_exec {i : Instr} (hs : Inv s) (h : exec i s = .next t) (hf : t.fstate = .inFrame)
    (h0 : t.bufLen = 0) (ho : t.out = s.out) : Resynced s t :=
  ⟨exec_keeps_inv hs h, (exec_params_input h).1, hf, h0, [], by simp [ho], by simp⟩

/-- The validation of a closed candidate resynchronises: its one event is the only one (R85, R86). -/
theorem exists_resynced_of_closed (hs : Inv s) (hf : s.fstate = .validating) :
    ∃ t, exec .frmValidate s = .next t ∧ Resynced s t := by
  obtain ⟨t, h⟩ := exec_frmValidate_of_closed hs hf
  obtain ⟨-, e, rfl⟩ := execFrmValidate_writes h
  exact ⟨_, h, exec_keeps_inv hs h, rfl, rfl, rfl, [e], rfl, le_rfl⟩

/-- A flag where a candidate is open and empty opens it again (R73). -/
theorem step_flag_of_empty (hs : Inv s) (hf : s.fstate = .inFrame) (h0 : s.bufLen = 0)
    (more : List Byte) : ∃ t, Resynced s t ∧ t.out = s.out ∧
      step (s.setInput (rxIssues (flagByte :: more))) = .next (t.setInput (rxIssues more)) := by
  have h := repeatedFlagReopensCandidate s hf h0
  exact ⟨_, .of_exec hs h hf h0 rfl, rfl, step_rxIssue hs.legal (by simp [selectRx, hf, h0]) h _⟩

/-- From every state that meets the invariants one flag opens an empty candidate, the framer's own
validation coming before it where a candidate is closed, and after it where the flag closes one
(R70, R73, R74, R77, R78). -/
theorem exists_resynced (hs : Inv s) (more : List Byte) : ∃ k t, k ≤ 2 ∧ Resynced s t ∧
    run k (s.setInput (rxIssues (flagByte :: more))) = .next (t.setInput (rxIssues more)) := by
  cases hf : s.fstate with
  | seeking =>
    have h := leadingFlagOpensCandidate s hf
    exact ⟨1, _, by omega, .of_exec hs h rfl rfl rfl,
      run_succ 0 (step_rxIssue hs.legal (by simp [selectRx, hf]) h _)⟩
  | inFrame =>
    rcases Nat.eq_zero_or_pos s.bufLen with h0 | hpos
    · obtain ⟨t, ht, -, hstep⟩ := step_flag_of_empty hs hf h0 more
      exact ⟨1, t, by omega, ht, run_succ 0 hstep⟩
    · have h := closingFlagAwaitsValidation s hf hpos
      have hsel : selectRx s.rxContext flagByte = .ok .rxInFlagClose := by
        simp [selectRx, hf, Nat.pos_iff_ne_zero.1 hpos]
      have hclosed := exec_keeps_inv hs h
      obtain ⟨t, hval, ht⟩ := exists_resynced_of_closed hclosed rfl
      exact ⟨2, t, le_rfl, ht.of_silent rfl rfl,
        (run_succ 1 (step_rxIssue hs.legal hsel h _)).trans
          (run_succ 0 (step_rxIssues_of_closed hclosed.legal hval more))⟩
  | validating =>
    obtain ⟨t, hval, ht⟩ := exists_resynced_of_closed hs hf
    obtain ⟨u, hu, ho, hstep⟩ := step_flag_of_empty ht.inv ht.fstate ht.bufLen more
    exact ⟨2, u, le_rfl, { hu with params := hu.params.trans ht.params, out := ho.symm ▸ ht.out },
      (run_succ 1 (step_rxIssues_of_closed hs.legal hval _)).trans (run_succ 0 hstep)⟩

/-- Settles O47. -/
theorem flagResynchronises : Obligations.FlagResynchronises := by
  intro s hs hin
  obtain ⟨k, t, hk, ht, hrun⟩ := exists_resynced hs []
  exact ⟨k, t.setInput [], hk, run_of_input hin hrun, ht.fstate, ht.bufLen,
    ht.inv.noise_eq_false (by simp [ht.fstate]), rfl⟩

/-- Settles O49: the opening flag resynchronises, then the content is delivered, its validation left to
the sequencer. -/
theorem nextFrameSurvivesCorruption : Obligations.NextFrameSurvivesCorruption := by
  intro s addr ctrl info hs ha hc hno hl hin
  obtain ⟨k, t, -, ht, hflag⟩ := exists_resynced hs (frameContent addr ctrl info ++ [flagByte])
  obtain ⟨before, hbefore, hone⟩ := ht.out
  rw [← ht.params] at ha hc hl
  obtain ⟨u, v, hcontent, hup, hval, hv⟩ :=
    exists_delivery ht.inv.legal ht.fstate ht.bufLen ha hc hno hl
  have hlast := step_rxIssues_of_closed (hup.symm ▸ ht.inv.legal) hval []
  have htail := hcontent []
  rw [List.append_nil] at htail
  refine ⟨k + ((frameContent addr ctrl info).length + 1 + 1), v.setInput [], before, ?_, ?_, hone,
    (congrArg State.fstate hv).trans ht.fstate, (congrArg State.bufLen hv).trans ht.bufLen, rfl⟩
  · exact run_of_input hin ((run_add _ hflag).trans ((run_add 1 htail).trans (run_succ 0 hlast)))
  · rw [← hbefore]
    exact congrArg State.out hv

end Sys2Proof.Machine

/-! PROOF. The validation side of the framer (42_framer_validate.md): the order of the checks and the one event
(R79 to R86), its residue form (R89), frames with an empty information field (R88), truncated frames (R90),
and `FRM.RESET` (R91). -/

namespace Sys2Proof.Machine

variable {s : State}

/-! ## What runs when -/

/-- Settles O8. -/
theorem closedCandidateIsValidatedUnasked : Obligations.ClosedCandidateIsValidatedUnasked := by
  intro s hp hin hf
  rw [step, turn_nil hp hin, State.turnAlone, if_pos hf]

/-- Settles O28. -/
theorem validateNeedsClosedCandidate : Obligations.ValidateNeedsClosedCandidate :=
  fun _ hf => if_neg hf

/-- Settles O31. -/
theorem framerResetRestoresFramer : Obligations.FramerResetRestoresFramer :=
  fun s => ⟨s.framerReset, rfl, rfl⟩

/-! ## The event of a validation -/

/-- The event a verdict is reported by, for a candidate opened at `off` (R84, R98). -/
def Verdict.event (off : Word32) : Verdict → Event
  | .accepted addr ctrl info => .payload addr ctrl info
  | .rejected k => .error k off

/-- The state after a validation that emits `e`: that event, then the epilogue (R85, R86). -/
def State.validated (s : State) (e : Event) : State :=
  { s with out := s.out ++ [e], bufLen := 0, fstate := .inFrame, frameStart := s.pos - 1 }

/-- Reporting a verdict and the epilogue, field by field (R84 to R86). -/
theorem resync_report (s : State) (v : Verdict) :
    (s.report v).resync = s.validated (v.event s.frameStart) := by cases v <;> rfl

/-- `FRM.VALIDATE` on a closed candidate: the event is that of the verdict on its content (R86). -/
theorem exec_frmValidate_eq_validated {bs : List Byte} (hf : s.fstate = .validating) (hbs : s.Holds bs) :
    exec .frmValidate s = .next (s.validated ((contentVerdict s.params bs).event s.frameStart)) := by
  rw [exec_frmValidate_of_holds hf hbs, resync_report]

/-- Settles O27: a buffer written below `BUFLEN` holds some candidate. -/
theorem validateEmitsOneEvent : Obligations.ValidateEmitsOneEvent := by
  intro s hf hw
  obtain ⟨bs, hbs⟩ := holds_of_written hw
  exact ⟨_, _, exec_frmValidate_eq_validated hf hbs, rfl⟩

/-- The event for a content, by the checks in their order (R80 to R84). -/
theorem event_contentVerdict (off : Word32) (p : Params) (bs : List Byte) :
    (contentVerdict p bs).event off =
      if bs.length < p.minFrameLen then .error .truncated off
      else if be16At bs p.hdrLen ≠ crc16 (bs.take p.hdrLen) then .error .headerCrcMismatch off
      else if be16At bs (bs.length - 2) ≠ crc16 (bs.take (bs.length - 2)) then
        .error .frameCrcMismatch off
      else .payload (addrOf p bs) (ctrlOf p bs) (infoOf p bs) := by
  simp only [contentVerdict, apply_ite (Verdict.event off)]
  rfl

/-- Settles O25. -/
theorem validateChecksInOrder : Obligations.ValidateChecksInOrder := by
  intro s bs hf hbs
  rw [exec_frmValidate_eq_validated hf hbs, event_contentVerdict]
  rfl

/-! ## The residue form -/

/-- Only the zero register steps to zero: the polynomial has bit 0 set, which the shift clears (R53, R54). -/
theorem eq_zero_of_bitStep_eq_zero {r : Word16} (h : bitStep r = 0) : r = 0 := by
  cases hr : r.getLsbD 15 with
  | true =>
    have h0 : (bitStep r).getLsbD 0 = true := by simp [bitStep, hr, crcPoly]
    simp [h] at h0
  | false =>
    rw [bitStep_of_clear hr] at h
    have hlow : ¬ 0x8000 ≤ r.toNat := mt (getLsbD_fifteen_iff r).2 (by rw [hr]; decide)
    bv_omega

/-- The steps lose nothing: by linearity two registers that step alike differ by one that steps to zero. -/
theorem bitStep_injective : Function.Injective bitStep := by
  intro a b h
  have h0 : bitStep (a ^^^ b) = 0 := by rw [bitStep_xor, h, BitVec.xor_self]; rfl
  exact BitVec.xor_eq_zero_iff.1 (eq_zero_of_bitStep_eq_zero h0)

theorem bitSteps_injective : ∀ k, Function.Injective (bitSteps k)
  | 0 => fun _ _ h => h
  | k + 1 => (bitSteps_injective k).comp bitStep_injective

/-- A message with a word appended leaves the residue exactly if the word is the message's CRC (R62, R89). -/
theorem crcRaw_append_word_eq_residue_iff (d : List Byte) (v : Word16) :
    crcRaw (d ++ checkBytes v) = crcResidue ↔ v = crc16 d := by
  calc crcRaw (d ++ checkBytes v) = crcResidue
    _ ↔ bitSteps 16 (crcRaw d ^^^ v) = bitSteps 16 (crcRaw d ^^^ crc16 d) := by
      rw [← crcRaw_append_word, ← crcRaw_append_word, crcRaw_append_crc16]; rfl
    _ ↔ v = crc16 d := (bitSteps_injective 16).eq_iff.trans (BitVec.xor_right_inj _)

/-- A word put together from two bytes gives them back (R10). -/
theorem checkBytes_be16 (hi lo : Byte) : checkBytes (be16 hi lo) = [hi, lo] :=
  congrArg₂ (fun a b => [a, b]) (opField_cmdWord hi lo) (bField_cmdWord hi lo)

/-- A content up to the end of a 16-bit field is what precedes the field, then the field (R40). -/
theorem take_add_two_eq_append {bs : List Byte} {n : Nat} (h : n + 2 ≤ bs.length) :
    bs.take (n + 2) = bs.take n ++ checkBytes (be16At bs n) := by
  have h0 : n < bs.length := by omega
  have h1 : n + 1 < bs.length := by omega
  rw [be16At, checkBytes_be16, ← List.take_append_getElem h1, ← List.take_append_getElem h0,
    List.append_assoc, List.getD_eq_getElem _ _ h0, List.getD_eq_getElem _ _ h1]
  rfl

/-- A 16-bit field of a content fits what precedes it exactly if the register over both is the residue:
the comparison of R82 and R83 as a test of R89. -/
theorem crcRaw_take_add_two_eq_residue_iff {bs : List Byte} {n : Nat} (h : n + 2 ≤ bs.length) :
    crcRaw (bs.take (n + 2)) = crcResidue ↔ be16At bs n = crc16 (bs.take n) := by
  rw [take_add_two_eq_append h, crcRaw_append_word_eq_residue_iff]

/-- Settles O26: each of the two comparisons is a test of the register for the residue. -/
theorem residueFormOfValidation : Obligations.ResidueFormOfValidation := by
  intro s bs hf hbs hlen
  have hmin : ¬ bs.length < s.params.minFrameLen := not_lt.2 hlen
  have hheader := crcRaw_take_add_two_eq_residue_iff (bs := bs) (n := s.params.hdrLen) (by omega)
  have hframe := crcRaw_take_add_two_eq_residue_iff (bs := bs) (n := bs.length - 2) (by omega)
  rw [Nat.sub_add_cancel (by omega), List.take_length] at hframe
  rw [exec_frmValidate_eq_validated hf hbs, event_contentVerdict, if_neg hmin]
  simp only [ne_eq, ← hheader, ← hframe]
  rfl

/-! ## Well-formed headers -/

/-- Settles O29: over a header with its check sequence the CRC is constant (R62), and a well-formed content
is accepted. -/
theorem emptyInfoFrameIsAccepted : Obligations.EmptyInfoFrameIsAccepted := by
  intro s addr ctrl ha hc hf hbs
  have hfcs : crc16 (headerContent addr ctrl) = 0xE2F0 := (crcResidueIsConstant (addr ++ ctrl)).2.1
  constructor
  · rw [frameContent, List.append_nil, hfcs]
    rfl
  · rw [exec_frmValidate_eq_validated hf hbs, contentVerdict_frameContent [] ha hc]
    rfl

section
variable {p : Params} {addr ctrl : List Byte}

/-- The address and control fields of a content that begins with a well-formed header (R39). -/
theorem fields_headerContent_append (ha : addr.length = p.addrLen) (hc : ctrl.length = p.ctrlLen)
    (rest : List Byte) : addrOf p (headerContent addr ctrl ++ rest) = addr ∧
      ctrlOf p (headerContent addr ctrl ++ rest) = ctrl := by
  constructor
  · simp [addrOf, headerContent, ← ha]
  · simp [ctrlOf, headerContent, ← ha, ← hc]

/-- A content that begins with a well-formed header passes the header check (R82). -/
theorem be16At_headerContent_append (ha : addr.length = p.addrLen) (hc : ctrl.length = p.ctrlLen)
    (rest : List Byte) : be16At (headerContent addr ctrl ++ rest) p.hdrLen =
      crc16 ((headerContent addr ctrl ++ rest).take p.hdrLen) := by
  have hh : p.hdrLen = (addr ++ ctrl).length := by rw [List.length_append, ha, hc, Params.hdrLen]
  rw [headerContent, be16At_checkBytes _ _ _ hh, List.append_assoc, List.take_left' hh.symm]

/-- A truncated content that is not too short still begins with its header (R90). -/
theorem headerContent_prefix_of_prefix {info bs : List Byte} (ha : addr.length = p.addrLen)
    (hc : ctrl.length = p.ctrlLen) (hpre : bs <+: frameContent addr ctrl info)
    (hmin : p.minFrameLen ≤ bs.length) : headerContent addr ctrl <+: bs := by
  have hheader : headerContent addr ctrl <+: frameContent addr ctrl info := by
    rw [frameContent, List.append_assoc]
    exact List.prefix_append _ _
  refine List.prefix_of_prefix_length_le hheader hpre ?_
  rw [length_headerContent, List.length_append, ha, hc]
  simp only [Params.minFrameLen, Params.hdrLen] at hmin
  omega

/-- What `FRM.VALIDATE` reports of a well-formed content cut short anywhere: too short, or its header is
whole and only the frame check can fail (R90). -/
theorem event_of_prefix_frameContent (off : Word32) {info bs : List Byte}
    (ha : addr.length = p.addrLen) (hc : ctrl.length = p.ctrlLen)
    (hpre : bs <+: frameContent addr ctrl info) :
    (contentVerdict p bs).event off =
      if bs.length < p.minFrameLen then .error .truncated off
      else if be16At bs (bs.length - 2) ≠ crc16 (bs.take (bs.length - 2)) then
        .error .frameCrcMismatch off
      else .payload addr ctrl (infoOf p bs) := by
  by_cases hmin : bs.length < p.minFrameLen
  · rw [event_contentVerdict, if_pos hmin, if_pos hmin]
  · obtain ⟨rest, rfl⟩ := headerContent_prefix_of_prefix ha hc hpre (not_lt.1 hmin)
    obtain ⟨haddr, hctrl⟩ := fields_headerContent_append ha hc rest
    rw [event_contentVerdict, if_neg (not_not.2 (be16At_headerContent_append ha hc rest)), haddr, hctrl]

end

/-- Settles O30: nothing left is the case of adjacent flags (R73), anything else a content cut short. -/
theorem trailingTruncationVerdict : Obligations.TrailingTruncationVerdict := by
  intro s addr ctrl info bs k ha hc _ _ hcut
  have hpre : bs <+: frameContent addr ctrl info := hcut ▸ List.take_prefix _ _
  refine ⟨fun h0 hf hbs => ?_, fun _ hf hbs => ?_⟩
  · exact repeatedFlagReopensCandidate s hf (hbs.1.trans h0)
  · rw [exec_frmValidate_eq_validated hf hbs, event_of_prefix_frameContent _ ha hc hpre]
    rfl

end Sys2Proof.Machine

/-! PROOF. The exception rules (60_exceptions.md): a block with no operation to run keeps all state (R107). -/

namespace Sys2Proof.Machine

/-- Settles O7: with nothing offered the turn is the framer's alone, and it has no candidate to validate. -/
theorem idleKeepsAllState : Obligations.IdleKeepsAllState := by
  intro s hp hin hf
  have hidle : s.turn = .idle := by rw [turn_nil hp hin, State.turnAlone, if_neg hf]
  rw [step, hidle]

end Sys2Proof.Machine

/-! PROOF. The reset and hazard rules (70_reset_and_hazards.md): the reset values (R112), what is held while a
candidate awaits its validation (R117), and the loss of an overlong frame (R119). -/

namespace Sys2Proof.Machine

variable {s t : State}

/-! ## Reset -/

/-- Settles O32, from the writes of `FRM.RESET`. -/
theorem resetStateTable : Obligations.ResetStateTable := by
  refine ⟨fun p => ⟨rfl, rfl, rfl, rfl, rfl, rfl, rfl, rfl⟩, fun s t h => ?_⟩
  obtain rfl := execFrmReset_next h
  exact ⟨rfl, rfl, rfl, rfl, rfl, rfl, rfl, rfl⟩

/-! ## What is held while a candidate is closed -/

/-- A byte offered while a candidate is closed is held: the step is the framer's own validation
(R78, R117, notes/assumptions/3.md). -/
theorem step_frmRx_of_closed {q : Issue} {rest : List Issue} {b : Byte} (hp : s.params.Legal)
    (hf : s.fstate = .validating) (hq : s.input = q :: rest) (hc : decodeCmd q.word = .ok (.frmRx b))
    (ho : q.agent.owns (.frmRx b) = true) : step s = exec .frmValidate s := by
  have hheld : resolve s.rxContext (.frmRx b) = .error .rxHeld := by simp [resolve, selectRx, hf]
  have hturn : s.turn = .sequencer := by simp [turn_cons hp hq, State.turnOf, hc, ho, hheld]
  rw [step, hturn]

/-- A command other than `FRM.RX` stands for an instruction in every state of the framer (R45). -/
theorem exists_resolve {cmd : Cmd} (h : ∀ b, cmd ≠ .frmRx b) (c : RxContext) :
    ∃ i, resolve c cmd = .ok i := by
  cases cmd with
  | frmRx b => exact absurd rfl (h b)
  | _ => exact ⟨_, rfl⟩

/-- Settles O6. -/
theorem onlyRxIsHeldWhileValidating : Obligations.OnlyRxIsHeldWhileValidating := by
  intro s q rest cmd hp hf hq hc ho
  constructor
  · rintro b rfl
    have hstep := step_frmRx_of_closed hp hf hq hc ho
    refine ⟨hstep, fun t ht => ?_⟩
    obtain ⟨-, e, rfl⟩ := execFrmValidate_writes (hstep.symm.trans ht)
    exact ⟨rfl, rfl⟩
  · intro hne
    obtain ⟨i, hi⟩ := exists_resolve hne s.rxContext
    obtain ⟨hcmd, -⟩ := resolve_eq_ok_iff.1 hi
    exact ⟨i, hcmd, step_of_decode hp hq hc ho ((decode_of_cmd hc _).trans hi)⟩

/-! ## An overlong frame -/

/-- `t` is `s`, where a candidate was open, after `n` bytes of an overlong content: the candidate is
dropped with its one error, and the noise that follows has been reported by it (R72, R119). -/
def Dropped (s : State) (n : Nat) (t : State) : Prop :=
  t = { s with
    pos := s.pos + BitVec.ofNat 32 n, fstate := .seeking, bufLen := 0, buf := t.buf, noise := true
    out := s.out ++ [.error .desync s.frameStart] }

/-- The byte over the cap drops the candidate (R72). -/
theorem exists_dropped_of_overflow {bs : List Byte} {b : Byte} (hp : s.params.Legal)
    (hf : s.fstate = .inFrame) (h0 : s.bufLen = 0) (hbs : flagByte ∉ bs) (hb : b ≠ flagByte)
    (hl : bs.length = s.params.maxFrameLen) :
    ∃ t, Dropped s (bs.length + 1) t ∧ ∀ l,
      run (bs.length + 1) (s.setInput (rxIssues bs ++ rxIssue b :: l)) = .next (t.setInput l) := by
  have hu := storeBytes_eq bs s
  have huf : (s.storeBytes bs).fstate = .inFrame := (congrArg State.fstate hu).trans hf
  have hup : (s.storeBytes bs).params = s.params := by rw [hu]
  have hul : (s.storeBytes bs).bufLen = (s.storeBytes bs).params.maxFrameLen := by
    rw [hup, ← hl, congrArg State.bufLen hu, h0, Nat.zero_add]
  have hsel : selectRx (s.storeBytes bs).rxContext b = .ok (.rxInOverflow b) := by
    simp [selectRx, huf, hb, hul]
  have hdrop := overflowDropsCandidate _ b huf hb hul
  refine ⟨_, ?_, fun l => (run_add 1 (run_rxIssues_data bs _ hp hf hbs (by omega))).trans
    (run_succ 0 (step_rxIssue (hup.symm ▸ hp) hsel hdrop l))⟩
  rw [hu, Dropped, add_ofNat_succ]

/-- A byte behind the drop is discarded in silence: `NOISE` is set (R69). -/
theorem Dropped.noise {n : Nat} {b : Byte} (h : Dropped s n t) (hb : b ≠ flagByte) :
    ∃ u, Dropped s (n + 1) u ∧ exec (.rxSeekNoise b) t = .next u := by
  refine ⟨{ t with pos := t.pos + 1 }, ?_, ?_⟩
  · rw [h, Dropped, add_ofNat_succ]
  · rw [noiseByteIsDiscarded t b (congrArg State.fstate h) hb]
    simp [congrArg State.noise h]

/-- The noise behind the drop is discarded byte by byte (R69, R119). -/
theorem Dropped.run_noise {n : Nat} (bs : List Byte) (h : Dropped s n t) (hp : s.params.Legal)
    (hbs : flagByte ∉ bs) : ∃ u, Dropped s (n + bs.length) u ∧ ∀ l,
      run bs.length (t.setInput (rxIssues bs ++ l)) = .next (u.setInput l) := by
  induction bs generalizing n t with
  | nil => exact ⟨t, h, fun _ => rfl⟩
  | cons b bs ih =>
    obtain ⟨hb, hbs⟩ := not_or.1 (mt List.mem_cons.2 hbs)
    have hsel : selectRx t.rxContext b = .ok (.rxSeekNoise b) := by
      simp [selectRx, congrArg State.fstate h, Ne.symm hb]
    have htp : t.params.Legal := (congrArg State.params h).symm ▸ hp
    obtain ⟨u, hu, hexec⟩ := h.noise (Ne.symm hb)
    obtain ⟨v, hv, hrun⟩ := ih hu hbs
    have hlen : n + (bs.length + 1) = n + 1 + bs.length := by omega
    rw [List.length_cons, hlen]
    exact ⟨v, hv, fun l => (run_succ bs.length (step_rxIssue htp hsel hexec _)).trans (hrun l)⟩

/-- A content longer than the buffer is taken in and dropped: stored up to the cap, dropped at the byte
over it, discarded from there on (R72, R119). -/
theorem exists_dropped {bs : List Byte} (hp : s.params.Legal) (hf : s.fstate = .inFrame)
    (h0 : s.bufLen = 0) (hbs : flagByte ∉ bs) (hl : s.params.maxFrameLen < bs.length) :
    ∃ t, Dropped s bs.length t ∧ ∀ l,
      run bs.length (s.setInput (rxIssues bs ++ l)) = .next (t.setInput l) := by
  obtain ⟨pre, post, hsplit, hpre, -⟩ := List.exists_of_set (a' := flagByte) hl
  generalize bs[s.params.maxFrameLen] = b at hsplit
  subst hsplit
  simp only [List.mem_append, List.mem_cons, not_or] at hbs
  obtain ⟨hstored, hb, hnoise⟩ := hbs
  obtain ⟨t, ht, hrun⟩ := exists_dropped_of_overflow hp hf h0 hstored (Ne.symm hb) hpre
  obtain ⟨u, hu, hrun'⟩ := ht.run_noise post hp hnoise
  have hlen : (pre ++ b :: post).length = pre.length + 1 + post.length := by
    rw [List.length_append, List.length_cons]; omega
  rw [hlen]
  refine ⟨u, hu, fun l => ?_⟩
  rw [rxIssues, List.map_append, List.append_assoc]
  exact (run_add _ (hrun _)).trans (hrun' l)

/-- Settles O24: the content is dropped, and in `Seeking` its closing flag opens a candidate (R70). -/
theorem overlongFrameIsLost : Obligations.OverlongFrameIsLost := by
  intro s bs rest hp hf h0 hbs hl hin
  obtain ⟨t, ht, hrun⟩ := exists_dropped hp hf h0 hbs hl
  have htf : t.fstate = .seeking := congrArg State.fstate ht
  have htp : t.params.Legal := (congrArg State.params ht).symm ▸ hp
  have hsel : selectRx t.rxContext flagByte = .ok .rxSeekFlag := by simp [selectRx, htf]
  have hflag := step_rxIssue htp hsel (leadingFlagOpensCandidate t htf) rest
  rw [rxIssues, List.map_append, List.append_assoc] at hin
  refine ⟨_, run_of_input hin ((run_add 1 (hrun _)).trans (run_succ 0 hflag)), ?_⟩
  rw [ht, add_ofNat_succ]
  exact State.eq_of_fields rfl rfl hf.symm h0.symm rfl rfl rfl rfl rfl rfl rfl

end Sys2Proof.Machine
